-- ==== Sys2Proof/Word.lean ====
section
/-! DEFINITION. The machine's units of data: the byte, the 32-bit register value, the datagram. -/

namespace Sys2Proof

/-- A byte is 8 bits (00_scope.md R7). -/
abbrev Byte := BitVec 8

/-- The value of a register: 32 bits (10_state.md R22, R29 to R39). -/
abbrev Word := BitVec 32

/-- A byte sequence with a definite end, handed to the host whole (00_scope.md R13, 10_state.md R41). -/
abbrev Datagram := List Byte

end Sys2Proof
end

