-- ==== Sys2Proof/Config.lean ====
section
/-! DEFINITION. The parameters of 00_scope.md R5: those a machine carries, with the values the spec states, and the
OPEN ones as constants without a body. -/

namespace Sys2Proof

/-- `RLE_TP_POLICY` (00_scope.md R5, 41_rle_codec.md R153): what the decompressor does with a
`transitionPos` that is not 0. -/
inductive TpPolicy where
  | ignore
  | refuse
  deriving DecidableEq, Repr

/-- `RLE_LAYOUT` (30_encoding.md R97, R98): where each bit of a descriptor sits in its 16-bit word.
`rlePos[i]` is the place, in the word, of bit `i` of the default layout's RLE descriptor (bits 10:0 length,
13:11 `transitionPos`, 14 `bit`, 15 tag); `rawPos[i]` the same for the Raw descriptor (bits 7:0 value,
14:8 reserved, 15 tag); `rleTag` is the tag bit's value in an RLE descriptor. DESIGN CHOICE, log 7. -/
structure RleLayout where
  rleTag : Bool
  rlePos : Vector (Fin 16) 16
  rawPos : Vector (Fin 16) 16
  deriving DecidableEq, Repr

/-- The parameters of 00_scope.md R5 but for the OPEN constants of the formats (log 6): arguments of the step relation,
which a machine carries unchanged through a run (10_state.md R21; log 5). `Config.default` has the values of R5's
table; what the wire formats ask of other values is `BlockConfig.valid` (log 25). -/
structure BlockConfig where
  /-- `RAW_DGRAM_MAX`: largest raw-mode image datagram, header included, bytes. -/
  rawDgramMax : Nat
  /-- `RAW_HDR_BYTES`: raw-mode image packet header, bytes. -/
  rawHdrBytes : Nat
  /-- `RLE_PAYLOAD_MAX`: largest RLE-mode image packet payload, bytes. -/
  rlePayloadMax : Nat
  /-- `SEQ_DGRAM_MAX`: largest sequence chunk datagram, header included, bytes. -/
  seqDgramMax : Nat
  /-- `SEQ_HDR_BYTES`: sequence chunk header, bytes. -/
  seqHdrBytes : Nat
  /-- `DEFAULT_CHUNK`: default chunk size, the reset value of `CHUNK` (10_state.md R45). -/
  defaultChunk : Word
  /-- `INUM_MAX`: largest image slot id. -/
  inumMax : Nat
  /-- `RLE_LEN_MAX`: largest `runLengthBytes` of one descriptor. -/
  rleLenMax : Nat
  /-- `ACK_RECID`: record id of the acknowledgement reply (40_record_codec.md R138). -/
  ackRecid : BitVec 16
  /-- `PARAM_BITS`: width of every parameter register (10_state.md R22). -/
  paramBits : Nat
  /-- `RLE_LAYOUT`. -/
  layout : RleLayout
  /-- `RLE_TP_POLICY`. -/
  tpPolicy : TpPolicy
  /-- `MAX_STREAM_BYTES`; `none` is unbounded. -/
  maxStream : Option Nat
  /-- `RETRY_CAP`, the host's bound on repair rounds (46_host_transfer_session.md R259); `none` leaves it OPEN, the
  constant `Config.retryCapRaw`. The machine reads it through `Machine.retryCap`. -/
  retryCap : Option Nat
  /-- `CMD_TIMEOUT`, the host's command-channel timeout in seconds (46_host_transfer_session.md R262). No step reads
  it but the construction of a session, which records it. -/
  cmdTimeout : Nat
  deriving DecidableEq, Repr

/-- What a gap reply says (46_host_transfer_session.md R257): no gap, or the index field of the last good packet. -/
inductive GapReply where
  | noGap
  | lastGood (n : Nat)
  deriving DecidableEq, Repr, Inhabited

namespace Config

/-- The default `RLE_LAYOUT` (30_encoding.md R97, R98): tag 15 with RLE = 1, every bit in its own place. -/
def defaultLayout : RleLayout :=
  { rleTag := true, rlePos := Vector.ofFn id, rawPos := Vector.ofFn id }

/-- The values of R5's table, with an unbounded capacity (60_exceptions.md R285) and `RETRY_CAP` left OPEN
(00_scope.md R5). -/
def default : BlockConfig :=
  { rawDgramMax := 1500, rawHdrBytes := 14, rlePayloadMax := 8956, seqDgramMax := 1500, seqHdrBytes := 10
    defaultChunk := 1440, inumMax := 65535, rleLenMax := 2047, ackRecid := 0x01F5, paramBits := 32
    layout := defaultLayout, tpPolicy := .ignore, maxStream := none, retryCap := none, cmdTimeout := 10 }

/-- Free constant behind `ACK_OK_CODE` (00_scope.md R5, OPEN): any code. The machine reads it through
`Machine.isAckOk`, which keeps it apart from 0x2710 as 40_record_codec.md R141 requires. Log 6. -/
opaque ackOkRaw : BitVec 16

/-- Free constant behind `REPLY_TABLE` (00_scope.md R5, OPEN but for one entry): any partial map. The machine
reads it through `Machine.replyName`, which puts in the one known entry and takes out `ACK_OK_CODE`. Log 6. -/
opaque replyRaw : BitVec 16 → Option String

/-- `IMG_RAW_TAG` (00_scope.md R5, OPEN; 42_image_packetizer.md R183): an opaque 32-bit constant. Log 6. -/
opaque imgRawTag : BitVec 32

/-- `IMG_RLE_RECID` (00_scope.md R5, OPEN; 42_image_packetizer.md R200). Log 6. -/
opaque imgRleRecid : BitVec 16

/-- `SEQ_TAG` (00_scope.md R5, OPEN; 43_sequence_packetizer.md R217). Log 6. -/
opaque seqTag : BitVec 16

/-- Free constant behind `RETRY_CAP` where a run names no value (00_scope.md R5, OPEN): any bound. Log 6. -/
opaque retryCapRaw : Nat

/-- Free value: what a 32-bit register shows for a count of 2^32 or more, which no rule states
(00_scope.md R15 takes lengths below 2^32). Log 9. -/
opaque wideCount : Nat → Word

/-- Free value: what a parameter register of the given width holds of a value that needs more bits. No rule states it;
at R5's 32 bits there is no such value. The register keeps it within its width (`Machine.fitParam`). Log 25. -/
opaque narrowed : Nat → Word → Word

/-- Free constant behind `GAP_PARSE` (46_host_transfer_session.md R257): the answer of a gap reply's payload that a
session's own table does not list. Log 16. -/
opaque gapParse : List Byte → GapReply

end Config

end Sys2Proof
end

