-- ==== Sys2Proof/Syntax.lean ====
section
/-! DEFINITION. The rows of spec/opcode_table.json: twelve command words and seven wire formats, one
constructor each; the descriptor as data; what can stand at the block's inputs to be decoded. -/

namespace Sys2Proof

/-- One constructor per row of the opcode table. The first twelve are commands (30_encoding.md R92) and have
no operand fields (R90). The last seven are units of a wire format with the format's own fields; what it
means to execute one is log 2. -/
inductive Instr where
  /-- NOP, 0x00 (44_control_ops.md R232). -/
  | nop
  /-- REC.ENC, 0x01 (40_record_codec.md R131). -/
  | recEnc
  /-- REC.DEC, 0x02 (40_record_codec.md R134). -/
  | recDec
  /-- REC.CLS, 0x03 (40_record_codec.md R137). -/
  | recCls
  /-- RLE.ENCROW, 0x04 (41_rle_codec.md R158). -/
  | rleEncRow
  /-- RLE.DECROW, 0x05 (41_rle_codec.md R152). -/
  | rleDecRow
  /-- RLE.ENCIMG, 0x06 (41_rle_codec.md R165). -/
  | rleEncImg
  /-- IMG.PKT.RAW, 0x08 (42_image_packetizer.md R182). -/
  | imgPktRaw
  /-- IMG.PKT.RLE, 0x18 (42_image_packetizer.md R193). -/
  | imgPktRle
  /-- SEQ.PKT, 0x09 (43_sequence_packetizer.md R211). -/
  | seqPkt
  /-- NEXT, 0x0A (44_control_ops.md R233). -/
  | next
  /-- CLR, 0x0B (44_control_ops.md R235). -/
  | clr
  /-- FRAME.RECORD (30_encoding.md R94); `totalSize` is `4 + len(payload)`. -/
  | frameRecord (recordId : BitVec 16) (payload : List Byte)
  /-- FRAME.ACK (30_encoding.md R96). -/
  | frameAck (code : BitVec 16)
  /-- DESC.RLE (30_encoding.md R97). -/
  | descRle (bit : Bool) (transitionPos : BitVec 3) (runLengthBytes : BitVec 11)
  /-- DESC.RAW (30_encoding.md R98). -/
  | descRaw (reserved : BitVec 7) (byteValue : Byte)
  /-- PKT.IMGRAW (30_encoding.md R100); the tag is the constant `IMG_RAW_TAG`. -/
  | pktImgRaw (sequenceIndex inum : BitVec 16) (lineOffset : BitVec 48) (payload : List Byte)
  /-- PKT.IMGRLE (30_encoding.md R101); the record id is the constant `IMG_RLE_RECID`. -/
  | pktImgRle (seqNo inum : BitVec 16) (lineOffset : BitVec 32) (encodedRowBytes : List Byte)
  /-- CHUNK.SEQ (30_encoding.md R102); the tag is the constant `SEQ_TAG`. -/
  | chunkSeq (chunkIndex totalChunks : BitVec 16) (data : List Byte)
  deriving DecidableEq, Repr

/-- An RLE descriptor, "one of two tagged variants" (00_scope.md R12, 30_encoding.md R97, R98). -/
inductive Desc where
  | rle (bit : Bool) (transitionPos : BitVec 3) (runLengthBytes : BitVec 11)
  | raw (reserved : BitVec 7) (byteValue : Byte)
  deriving DecidableEq, Repr

/-- The wire formats a unit can be presented in. The two descriptor rows are one format of 16 bits, told
apart by the tag bit (30_encoding.md R97, R98). -/
inductive WireFormat where
  | frameRecord
  | frameAck
  | desc16
  | pktImgRaw
  | pktImgRle
  | chunkSeq
  deriving DecidableEq, Repr

/-- What stands at an input of the block to be decoded: the 32-bit value written to `CMD`
(10_state.md R29), or the bytes of one wire unit in a named format. -/
inductive CodeUnit where
  | cmd (w : Word)
  | wire (f : WireFormat) (bytes : List Byte)
  deriving DecidableEq, Repr

end Sys2Proof
end

