-- ==== Sys2Proof/Machine/State.lean ====
section
/-! DEFINITION. The state of the block and of the host's side of its interface, the block's faults, the
host's actions, and the state after reset. -/

namespace Sys2Proof.Machine

/-- `STATUS.STATE` (10_state.md R30); the value 3 never occurs. -/
inductive BlockState where
  | idle
  | ready
  | fault
  deriving DecidableEq, Repr

/-- The parameter an InvalidParameter fault names (60_exceptions.md R282). -/
inductive ParamId where
  | inum
  | width
  | rasterLength
  | packetMultiple
  | packetSize
  | linesPerPacket
  | recordId
  | payloadLength
  | packetCount
  | rowLength
  deriving DecidableEq, Repr

/-- The block's faults (60_exceptions.md R281). They are states the host reads, not stops of the machine. -/
inductive BlockFault where
  | invalidParameter (p : ParamId)
  | malformedRecord
  | invalidChunkSize
  | illegalOperation
  | malformedDescriptorStream
  | protocolViolation
  | reservedDescriptor
  | bufferOverflow
  deriving DecidableEq, Repr

/-- The phases of a transfer session (46_host_transfer_session.md R251). -/
inductive Phase where
  | idle
  | priming
  | transferring
  | verifying
  | repairing
  | complete
  | failed
  deriving DecidableEq, Repr

/-- Why a session failed (46_host_transfer_session.md R251). -/
inductive SessionFailure where
  | primingFailed (reply : Datagram)
  | timeout
  | transportError
  | transferIncomplete
  deriving DecidableEq, Repr

/-- Which packetizer command a session's burst comes from (46_host_transfer_session.md R250, R265). -/
inductive Packetizer where
  | imgRaw
  | imgRle
  | seq
  deriving DecidableEq, Repr

/-- Where a session's two channels lead: "host, command port, data port" (46_host_transfer_session.md R251). -/
structure Endpoints where
  host : String
  commandPort : Nat
  dataPort : Nat
  deriving DecidableEq, Repr

/-- "(host, command port, data port, timeout)", passed at session construction
(46_host_transfer_session.md R251, R262). No rule of the block or of the phases reads it. -/
structure TransportConfig extends Endpoints where
  timeout : Nat
  deriving DecidableEq, Repr

/-- A record the session sends on the command channel: what REC.ENC makes its frame from
(46_host_transfer_session.md R250, R253; log 14). -/
structure CommandRecord where
  recordId : Word
  payload : List Byte
  deriving DecidableEq, Repr

/-- `PRIMING_RECORDS`: the five setup records, in the order they are sent (46_host_transfer_session.md R253). -/
structure PrimingRecords where
  selectMode : CommandRecord
  setSlotSize : CommandRecord
  resetSequenceCounter : CommandRecord
  haltSequencer : CommandRecord
  resetSequencer : CommandRecord
  deriving DecidableEq, Repr

/-- What a session is made from: one raster or one program, the records it sends on the command channel and where its
channels lead (46_host_transfer_session.md R250, R251, R253, R257, R260). Its bound on repair rounds and its timeout are
parameters of the run (00_scope.md R5, 10_state.md R21). -/
structure SessionPlan where
  kind : Packetizer
  /-- The raster or the sequencer program. -/
  data : List Byte
  priming : PrimingRecords
  /-- The request-sequence-gap record. -/
  gapRequest : CommandRecord
  /-- `GAP_PARSE` as data: answers of gap replies' payloads (46_host_transfer_session.md R257; log 16). -/
  gapTable : List (List Byte × GapReply)
  /-- `FINAL_RECORD`. -/
  finalRecord : CommandRecord
  endpoints : Endpoints
  deriving DecidableEq, Repr

/-- The state of a transfer session (46_host_transfer_session.md R251): all of it the host's. -/
structure Session where
  plan : SessionPlan
  /-- The transport configuration; its timeout is the run's `CMD_TIMEOUT` (log 5). -/
  transport : TransportConfig
  phase : Phase
  /-- Priming records not yet acknowledged; the head is the one in flight. -/
  left : List CommandRecord
  /-- `sent`: 0 until the first burst is completed (log 22). -/
  sent : Nat
  retries : Nat
  failure : Option SessionFailure
  /-- A command-channel request is waiting for its reply (46_host_transfer_session.md R262). -/
  inFlight : Bool
  /-- The final record is the request in flight (46_host_transfer_session.md R260). -/
  finalSent : Bool
  /-- The gap request's frame, kept for reuse (46_host_transfer_session.md R260); empty until it is made. -/
  gapFrame : Datagram
  /-- Datagrams sent on the command channel, oldest first. -/
  cmdTx : List Datagram
  /-- Datagrams sent on the data channel, oldest first. -/
  dataTx : List Datagram
  deriving DecidableEq, Repr

/-- What the caller is told when a session ends (46_host_transfer_session.md R261: "last successful state, packet
counts"; log 21). -/
structure SessionReport where
  /-- The phase the session was in when it ended. -/
  last : Phase
  /-- The session as it ended: its last phase, its failure and its counts. -/
  session : Session
  deriving DecidableEq, Repr

/-- What can happen to a session (46_host_transfer_session.md R252 to R263). -/
inductive SessionEvent where
  /-- A session is constructed. -/
  | create (plan : SessionPlan)
  /-- The host starts it: `Idle → Priming`. -/
  | start
  /-- A reply datagram arrives on the command channel. -/
  | reply (b : Datagram)
  /-- The host takes its next turn of a burst. -/
  | advance
  /-- The command-channel timeout expires. -/
  | timeout
  /-- A socket error. -/
  | socketError
  /-- The host aborts the session (46_host_transfer_session.md R263). -/
  | abort
  deriving DecidableEq, Repr

/-- The host's actions (44_control_ops.md R230), and the two kinds of host turn made of them: presenting a
wire unit (log 2) and a session event (log 14). -/
inductive HostAction where
  /-- A write of a 32-bit value to a register offset: a command, a SEEK, a SET, or an ignored write. -/
  | write (offset : Nat) (v : Word)
  /-- READ of a register offset. -/
  | read (offset : Nat)
  /-- LOAD. -/
  | load (b : List Byte)
  /-- RESET. -/
  | reset
  /-- A wire unit is presented to the block. -/
  | present (f : WireFormat) (b : List Byte)
  /-- A session event. -/
  | session (e : SessionEvent)
  deriving DecidableEq, Repr

/-- Everything the spec gives the machine (10_state.md R21), then the parameters fixed for a run (log 5), then
the host's side of the interface (log 1, log 11, log 14). -/
structure State where
  /-- `RECID` (10_state.md R22). -/
  recid : Word
  /-- `INUM` (10_state.md R22). -/
  inum : Word
  /-- `WIDTH` (10_state.md R22). -/
  width : Word
  /-- `LPP` (10_state.md R22). -/
  lpp : Word
  /-- `CHUNK` (10_state.md R22). -/
  chunk : Word
  /-- `STATUS.STATE` (10_state.md R30). -/
  st : BlockState
  /-- `FAULT.CODE` (10_state.md R31). -/
  faultCode : BitVec 8
  /-- `FAULT.PARAM` (10_state.md R31). -/
  faultParam : BitVec 8
  /-- `IN`, with `INLEN` its length (10_state.md R39, R40). -/
  inBuf : List Byte
  /-- `OUTQ`, with `OUTCNT` its length (10_state.md R32, R41). -/
  outq : List Datagram
  /-- `OUTIDX` (10_state.md R33). -/
  outidx : Nat
  /-- `RSIZE` (10_state.md R35). -/
  rsize : Word
  /-- `RRECID` (10_state.md R36). -/
  rrecid : Word
  /-- `RCLASS` (10_state.md R37). -/
  rclass : Word
  /-- `RCODE` (10_state.md R38). -/
  rcode : Word
  /-- The parameters fixed for a run (10_state.md R21, 00_scope.md R5). -/
  cfg : BlockConfig
  /-- The host's actions not yet taken, in program order (20_memory.md R70 b). -/
  pending : List HostAction
  /-- The datagrams NEXT has handed to the host, oldest first (44_control_ops.md R234). -/
  handed : List Datagram
  /-- The values READ has returned to the host, oldest first (44_control_ops.md R239). -/
  reads : List Word
  /-- The host's transfer session, until it ends (46_host_transfer_session.md R250, R251). -/
  session : Option Session
  /-- The reports of the sessions that have ended, oldest first (46_host_transfer_session.md R261). -/
  reports : List SessionReport
  deriving DecidableEq, Repr

/-- A stop of the machine. There is none: "There is no halt, lock-up or shutdown state" (60_exceptions.md R291);
the block's faults are states (`BlockFault`). -/
inductive Fault where
  deriving DecidableEq, Repr

/-- An instruction without a meaning. -/
inductive Refusal where
  /-- Raised by an arm of exec whose instruction has no meaning yet; no arm does. Safe: nothing is claimed of it. -/
  | notModelled (mnemonic : String)
  deriving DecidableEq, Repr

/-- The machine right after reset (10_state.md R45, 70_reset_and_hazards.md R320), with the spec's default
parameters (log 5) and a host that has done nothing and has nothing pending (log 1, log 11, log 14). -/
def State.reset : State :=
  { recid := 0, inum := 0, width := 0, lpp := 0, chunk := Config.default.defaultChunk
    st := .idle, faultCode := 0, faultParam := 0
    inBuf := [], outq := [], outidx := 0
    rsize := 0, rrecid := 0, rclass := 0, rcode := 0
    cfg := Config.default
    pending := [], handed := [], reads := [], session := none, reports := [] }

end Sys2Proof.Machine
end

