-- ==== Sys2Proof/WellFormed.lean ====
section
/-! DEFINITION. Which terms of Instr the spec's formats contain. A command has no operand, so every
command is well formed; a wire unit's fields keep the relations its format states. -/

namespace Sys2Proof

/-- FRAME.RECORD: payload of 0 to 65531 bytes (30_encoding.md R94, 40_record_codec.md R132). -/
def wfFrameRecord (payload : List Byte) : Bool :=
  decide (4 + payload.length ≤ 65535)

/-- PKT.IMGRAW: header and payload within `RAW_DGRAM_MAX` and a payload of at least one byte
(42_image_packetizer.md R190; `LPP` and `WIDTH / 8` are above 0), and `lineOffset = sequenceIndex * LPP` for
some 32-bit `LPP` above 0 (R191). -/
def wfPktImgRaw (c : BlockConfig) (sequenceIndex : BitVec 16) (lineOffset : BitVec 48) (payload : List Byte) :
    Bool :=
  decide (1 ≤ payload.length) && decide (c.rawHdrBytes + payload.length ≤ c.rawDgramMax)
    && (if sequenceIndex.toNat = 0 then decide (lineOffset.toNat = 0)
        else decide (lineOffset.toNat % sequenceIndex.toNat = 0)
          && decide (1 ≤ lineOffset.toNat / sequenceIndex.toNat)
          && decide (lineOffset.toNat / sequenceIndex.toNat < 2 ^ 32))

/-- PKT.IMGRLE: `seqNo = lineOffset + 1` (42_image_packetizer.md R195, R196), a row of at least one descriptor
of 2 bytes each (30_encoding.md R99, 41_rle_codec.md R164), payload within `RLE_PAYLOAD_MAX` (42 R198). -/
def wfPktImgRle (c : BlockConfig) (seqNo : BitVec 16) (lineOffset : BitVec 32) (encodedRowBytes : List Byte) :
    Bool :=
  decide (seqNo.toNat = lineOffset.toNat + 1) && decide (2 ≤ encodedRowBytes.length)
    && decide (encodedRowBytes.length % 2 = 0)
    && decide (8 + encodedRowBytes.length ≤ c.rlePayloadMax)

/-- The largest multiple of 8 a chunk datagram holds beside its header: 1488 by R5's values
(43_sequence_packetizer.md R212). -/
def chunkDataMax (c : BlockConfig) : Nat := (c.seqDgramMax - c.seqHdrBytes) / 8 * 8

/-- CHUNK.SEQ: `chunkIndex` 1-based and at most `totalChunks`, data of 1 byte to the largest chunk size
(43_sequence_packetizer.md R211, R212, R216). -/
def wfChunkSeq (c : BlockConfig) (chunkIndex totalChunks : BitVec 16) (data : List Byte) : Bool :=
  decide (1 ≤ chunkIndex.toNat) && decide (chunkIndex.toNat ≤ totalChunks.toNat)
    && decide (1 ≤ data.length) && decide (data.length ≤ chunkDataMax c)

/-- The instructions that are well formed under the parameters `c`. -/
def Instr.wf (c : BlockConfig) : Instr → Bool
  | .nop => true
  | .recEnc => true
  | .recDec => true
  | .recCls => true
  | .rleEncRow => true
  | .rleDecRow => true
  | .rleEncImg => true
  | .imgPktRaw => true
  | .imgPktRle => true
  | .seqPkt => true
  | .next => true
  | .clr => true
  | .frameRecord _ payload => wfFrameRecord payload
  | .frameAck _ => true
  | .descRle _ _ _ => true
  | .descRaw _ _ => true
  | .pktImgRaw sequenceIndex _ lineOffset payload => wfPktImgRaw c sequenceIndex lineOffset payload
  | .pktImgRle seqNo _ lineOffset encodedRowBytes => wfPktImgRle c seqNo lineOffset encodedRowBytes
  | .chunkSeq chunkIndex totalChunks data => wfChunkSeq c chunkIndex totalChunks data

/-- A layout places all 16 bits of each variant in different places and both variants' tag in the same
place, so that a reader can tell the variants apart (30_encoding.md R97, R98). -/
def RleLayout.valid (L : RleLayout) : Bool :=
  decide (∀ i j : Fin 16, L.rlePos[i] = L.rlePos[j] → i = j)
    && decide (∀ i j : Fin 16, L.rawPos[i] = L.rawPos[j] → i = j)
    && decide (L.rlePos[(15 : Fin 16)] = L.rawPos[(15 : Fin 16)])

/-- The parameters agree with the wire formats: the headers have the bytes their fields take (30_encoding.md R100,
R102), and every size, slot id and run length that the limits admit fits its field (R97, R101 to R103). DEDUCED,
log 25. -/
def BlockConfig.valid (c : BlockConfig) : Bool :=
  c.layout.valid && decide (c.rawHdrBytes = 14) && decide (c.seqHdrBytes = 10)
    && decide (c.rlePayloadMax ≤ 65531) && decide (c.seqDgramMax ≤ 65535) && decide (c.inumMax ≤ 65535)
    && decide (1 ≤ c.rleLenMax) && decide (c.rleLenMax ≤ 2047)

end Sys2Proof
end

