-- ==== Sys2Proof/Decode.lean ====
section
/-! DEFINITION. Byte order and bit fields; the decoder, total on any input and rejecting by name; the
encoder, written from the same tables. -/

namespace Sys2Proof

/-! ### Byte order (00_scope.md R7, R8; 20_memory.md R60) -/

/-- The `n` bytes of `v`, most significant first (00_scope.md R8); `v` must fit. -/
def beBytes : Nat → Nat → List Byte
  | 0, _ => []
  | n + 1, v => BitVec.ofNat 8 (v / 256 ^ n) :: beBytes n v

/-- `be16` (00_scope.md R8). -/
def be16 (v : Nat) : List Byte := beBytes 2 v

/-- `be32` (00_scope.md R8). -/
def be32 (v : Nat) : List Byte := beBytes 4 v

/-- `be48` (00_scope.md R8). -/
def be48 (v : Nat) : List Byte := beBytes 6 v

/-- The natural that a whole byte sequence spells, most significant byte first. -/
def beVal (b : List Byte) : Nat := b.foldl (fun acc x => acc * 256 + x.toNat) 0

/-- `rd16(b, i) = b[i] * 256 + b[i+1]` (00_scope.md R8); every use is in range (20_memory.md R75). -/
def rd16 (b : List Byte) (i : Nat) : Nat := (b.getD i 0).toNat * 256 + (b.getD (i + 1) 0).toNat

/-- `b[i:j]`, from index `i` inclusive to `j` exclusive (00_scope.md R7). -/
def slice (b : List Byte) (i j : Nat) : List Byte := (b.drop i).take (j - i)

/-! ### The descriptor word under a layout (30_encoding.md R97, R98) -/

/-- Bit `i` of the result is bit `pos[i]` of `w`: from the word to the default layout's places. -/
def gatherBits (pos : Vector (Fin 16) 16) (w : BitVec 16) : BitVec 16 :=
  BitVec.ofFnLE fun i : Fin 16 => w.getLsbD (pos[i]).val

/-- Bit `pos[i]` of the result is bit `i` of `c`: from the default layout's places to the word. -/
def scatterBits (pos : Vector (Fin 16) 16) (c : BitVec 16) : BitVec 16 :=
  BitVec.ofFnLE fun j : Fin 16 =>
    match (List.finRange 16).find? (fun i => pos[i] == j) with
    | some i => c.getLsbD i.val
    | none => false

/-- The 16-bit word of a descriptor (30_encoding.md R97, R98). -/
def descWord (L : RleLayout) : Desc → BitVec 16
  | .rle bit transitionPos runLengthBytes =>
    scatterBits L.rlePos
      (BitVec.ofBool L.rleTag ++ BitVec.ofBool bit ++ transitionPos ++ runLengthBytes : BitVec 16)
  | .raw reserved byteValue =>
    scatterBits L.rawPos (BitVec.ofBool (!L.rleTag) ++ reserved ++ byteValue : BitVec 16)

/-- The descriptor of a 16-bit word: the tag bit tells the variant (30_encoding.md R97, R98). -/
def wordDesc (L : RleLayout) (w : BitVec 16) : Desc :=
  if w.getLsbD (L.rlePos[(15 : Fin 16)]).val = L.rleTag then
    let c := gatherBits L.rlePos w
    .rle (c.getLsbD 14) (c.extractLsb' 11 3) (c.extractLsb' 0 11)
  else
    let c := gatherBits L.rawPos w
    .raw (c.extractLsb' 8 7) (c.extractLsb' 0 8)

/-- A descriptor on the wire: 2 bytes, big-endian (30_encoding.md R97). -/
def descBytes (L : RleLayout) (d : Desc) : List Byte := be16 (descWord L d).toNat

/-- The row of the opcode table a descriptor belongs to. -/
def descInstr : Desc → Instr
  | .rle bit transitionPos runLengthBytes => .descRle bit transitionPos runLengthBytes
  | .raw reserved byteValue => .descRaw reserved byteValue

/-! ### The decoder -/

/-- Why an input does not decode. -/
inductive DecodeError where
  /-- Bits 31:8 of the value written to `CMD` are not zero (30_encoding.md R90). -/
  | upperBitsNotZero
  /-- The low byte is none of the twelve words (30_encoding.md R93). -/
  | unassignedWord
  /-- A unit whose length its format does not have. -/
  | badLength
  /-- A size or length field that differs from what it counts (30_encoding.md R95, R102). -/
  | sizeMismatch
  /-- A tag or record id other than the format's constant (30_encoding.md R96, R100 to R102). -/
  | wrongTag
  /-- Fields that break a relation of the format (`Instr.wf`). -/
  | illFormed
  deriving DecidableEq, Repr

/-- The low byte of a command word to its instruction: the table of 30_encoding.md R92. -/
def commandOfByte : Nat → Option Instr
  | 0x00 => some .nop
  | 0x01 => some .recEnc
  | 0x02 => some .recDec
  | 0x03 => some .recCls
  | 0x04 => some .rleEncRow
  | 0x05 => some .rleDecRow
  | 0x06 => some .rleEncImg
  | 0x08 => some .imgPktRaw
  | 0x18 => some .imgPktRle
  | 0x09 => some .seqPkt
  | 0x0A => some .next
  | 0x0B => some .clr
  | _ => none

/-- Decoding a command (30_encoding.md R93): total on all 2^32 written values. -/
def decodeCmd (w : Word) : Except DecodeError Instr :=
  if w.extractLsb' 8 24 = 0 then
    match commandOfByte (w.extractLsb' 0 8).toNat with
    | some i => .ok i
    | none => .error .unassignedWord
  else .error .upperBitsNotZero

/-- FRAME.RECORD (30_encoding.md R94, R95). -/
def decodeFrameRecord (b : List Byte) : Except DecodeError Instr :=
  if b.length < 4 then .error .badLength
  else if rd16 b 0 ≠ b.length then .error .sizeMismatch
  else .ok (.frameRecord (BitVec.ofNat 16 (rd16 b 2)) (b.drop 4))

/-- FRAME.ACK (30_encoding.md R96): exactly 6 bytes, `00 06 01 F5 cc cc` by R5's `ACK_RECID`. -/
def decodeFrameAck (ackRecid : BitVec 16) (b : List Byte) : Except DecodeError Instr :=
  if b.length ≠ 6 then .error .badLength
  else if rd16 b 0 ≠ 6 then .error .sizeMismatch
  else if rd16 b 2 ≠ ackRecid.toNat then .error .wrongTag
  else .ok (.frameAck (BitVec.ofNat 16 (rd16 b 4)))

/-- DESC.RLE and DESC.RAW (30_encoding.md R97, R98): 2 bytes. -/
def decodeDesc (L : RleLayout) (b : List Byte) : Except DecodeError Instr :=
  if b.length ≠ 2 then .error .badLength
  else .ok (descInstr (wordDesc L (BitVec.ofNat 16 (rd16 b 0))))

/-- PKT.IMGRAW (30_encoding.md R100). -/
def decodePktImgRaw (b : List Byte) : Except DecodeError Instr :=
  if b.length < 14 then .error .badLength
  else if slice b 0 4 ≠ be32 Config.imgRawTag.toNat then .error .wrongTag
  else .ok (.pktImgRaw (BitVec.ofNat 16 (rd16 b 4)) (BitVec.ofNat 16 (rd16 b 6))
    (BitVec.ofNat 48 (beVal (slice b 8 14))) (b.drop 14))

/-- PKT.IMGRLE (30_encoding.md R101). -/
def decodePktImgRle (b : List Byte) : Except DecodeError Instr :=
  if b.length < 12 then .error .badLength
  else if rd16 b 0 ≠ b.length then .error .sizeMismatch
  else if rd16 b 2 ≠ Config.imgRleRecid.toNat then .error .wrongTag
  else .ok (.pktImgRle (BitVec.ofNat 16 (rd16 b 4)) (BitVec.ofNat 16 (rd16 b 6))
    (BitVec.ofNat 32 (beVal (slice b 8 12))) (b.drop 12))

/-- CHUNK.SEQ (30_encoding.md R102). -/
def decodeChunkSeq (b : List Byte) : Except DecodeError Instr :=
  if b.length < 10 then .error .badLength
  else if rd16 b 0 ≠ b.length then .error .sizeMismatch
  else if rd16 b 2 ≠ Config.seqTag.toNat then .error .wrongTag
  else if rd16 b 8 ≠ b.length - 10 then .error .sizeMismatch
  else .ok (.chunkSeq (BitVec.ofNat 16 (rd16 b 4)) (BitVec.ofNat 16 (rd16 b 6)) (b.drop 10))

/-- The fields of a wire unit, before the relations between them are tested. -/
def decodeFields (c : BlockConfig) : WireFormat → List Byte → Except DecodeError Instr
  | .frameRecord, b => decodeFrameRecord b
  | .frameAck, b => decodeFrameAck c.ackRecid b
  | .desc16, b => decodeDesc c.layout b
  | .pktImgRaw, b => decodePktImgRaw b
  | .pktImgRle, b => decodePktImgRle b
  | .chunkSeq, b => decodeChunkSeq b

/-- Decoding a wire unit: its fields, and nothing that is not well formed. -/
def decodeWire (c : BlockConfig) (f : WireFormat) (b : List Byte) : Except DecodeError Instr :=
  match decodeFields c f b with
  | .error e => .error e
  | .ok i => if i.wf c then .ok i else .error .illFormed

/-- The decoder: total on any unit, under the machine's parameters. -/
def decode (c : BlockConfig) : CodeUnit → Except DecodeError Instr
  | .cmd w => decodeCmd w
  | .wire f b => decodeWire c f b

/-! ### The encoder -/

/-- The bytes of a Record frame: `be16(4 + len(payload)) ‖ be16(id) ‖ payload` (30_encoding.md R94). -/
def recordFrame (recordId : Nat) (payload : List Byte) : List Byte :=
  be16 (4 + payload.length) ++ be16 recordId ++ payload

/-- The bytes of an acknowledgement frame (30_encoding.md R96). -/
def ackFrame (ackRecid : BitVec 16) (code : Nat) : List Byte := be16 6 ++ be16 ackRecid.toNat ++ be16 code

/-- The bytes of a raw-mode image packet (30_encoding.md R100). -/
def imgRawPacket (tag sequenceIndex inum lineOffset : Nat) (payload : List Byte) : List Byte :=
  be32 tag ++ be16 sequenceIndex ++ be16 inum ++ be48 lineOffset ++ payload

/-- The payload of an RLE-mode image packet, `seqNo ‖ inum ‖ offset ‖ encodedRowBytes` (30_encoding.md R101). -/
def imgRlePayload (seqNo inum lineOffset : Nat) (encodedRowBytes : List Byte) : List Byte :=
  be16 seqNo ++ be16 inum ++ be32 lineOffset ++ encodedRowBytes

/-- The bytes of a sequence chunk (30_encoding.md R102). -/
def chunkDatagram (tag chunkIndex totalChunks : Nat) (data : List Byte) : List Byte :=
  be16 (10 + data.length) ++ be16 tag ++ be16 chunkIndex ++ be16 totalChunks ++ be16 data.length ++ data

/-- The unit that stands for an instruction: the value to write to `CMD` (30_encoding.md R92) or the bytes
of the wire unit (R94 to R102). -/
def encode (c : BlockConfig) : Instr → CodeUnit
  | .nop => .cmd 0x00
  | .recEnc => .cmd 0x01
  | .recDec => .cmd 0x02
  | .recCls => .cmd 0x03
  | .rleEncRow => .cmd 0x04
  | .rleDecRow => .cmd 0x05
  | .rleEncImg => .cmd 0x06
  | .imgPktRaw => .cmd 0x08
  | .imgPktRle => .cmd 0x18
  | .seqPkt => .cmd 0x09
  | .next => .cmd 0x0A
  | .clr => .cmd 0x0B
  | .frameRecord recordId payload => .wire .frameRecord (recordFrame recordId.toNat payload)
  | .frameAck code => .wire .frameAck (ackFrame c.ackRecid code.toNat)
  | .descRle bit transitionPos runLengthBytes =>
    .wire .desc16 (descBytes c.layout (.rle bit transitionPos runLengthBytes))
  | .descRaw reserved byteValue => .wire .desc16 (descBytes c.layout (.raw reserved byteValue))
  | .pktImgRaw sequenceIndex inum lineOffset payload =>
    .wire .pktImgRaw
      (imgRawPacket Config.imgRawTag.toNat sequenceIndex.toNat inum.toNat lineOffset.toNat payload)
  | .pktImgRle seqNo inum lineOffset encodedRowBytes =>
    .wire .pktImgRle (recordFrame Config.imgRleRecid.toNat
      (imgRlePayload seqNo.toNat inum.toNat lineOffset.toNat encodedRowBytes))
  | .chunkSeq chunkIndex totalChunks data =>
    .wire .chunkSeq (chunkDatagram Config.seqTag.toNat chunkIndex.toNat totalChunks.toNat data)

/-! ### The table's words -/

/-- Where an instruction of `nbits` table bits `w` stands, and as what: 8 bits are a value written to `CMD`,
the other widths of the table are wire units, their number's most significant byte first as the table's
`match` column writes them. FRAME.RECORD's number is its 32 header bits and its payload, the bits the table
gives no place, is zeros. Log 19. -/
def tableUnit (nbits w : Nat) : CodeUnit :=
  if nbits = 16 then .wire .desc16 (beBytes 2 w)
  else if nbits = 32 then
    .wire .frameRecord (beBytes 4 w ++ List.replicate ((w / 65536) % 65536 - 4) 0)
  else if nbits = 48 then .wire .frameAck (beBytes 6 w)
  else if nbits = 80 then .wire .chunkSeq (beBytes 10 w)
  else if nbits = 96 then .wire .pktImgRle (beBytes 12 w)
  else if nbits = 112 then .wire .pktImgRaw (beBytes 14 w)
  else .cmd (BitVec.ofNat 32 (w % 2 ^ nbits))

/-- The instruction the decoder reads from a row's bits, under R5's values (00_scope.md R5). -/
def decodeTableWord (nbits w : Nat) : Option Instr :=
  match decode Config.default (tableUnit nbits w) with
  | .ok i => some i
  | .error _ => none

end Sys2Proof
end

