-- ==== Sys2Proof/Machine/Flags.lean ====
section
/-! DEFINITION. The status bits and register values that are functions of other state (44_control_ops.md R239),
and the numbers of the faults, parameter ids and reply classes. -/

namespace Sys2Proof.Machine

/-- `FAULT.CODE` of a fault (60_exceptions.md R281). -/
def faultCodeOf : BlockFault → BitVec 8
  | .invalidParameter _ => 1
  | .malformedRecord => 2
  | .invalidChunkSize => 3
  | .illegalOperation => 4
  | .malformedDescriptorStream => 5
  | .protocolViolation => 6
  | .reservedDescriptor => 7
  | .bufferOverflow => 8

/-- The number of a parameter id (60_exceptions.md R282). -/
def paramNumber : ParamId → BitVec 8
  | .inum => 1
  | .width => 2
  | .rasterLength => 3
  | .packetMultiple => 4
  | .packetSize => 5
  | .linesPerPacket => 6
  | .recordId => 7
  | .payloadLength => 8
  | .packetCount => 9
  | .rowLength => 10

/-- `FAULT.PARAM` of a fault: the id for InvalidParameter, 0 for every other (60_exceptions.md R282). -/
def faultParamOf : BlockFault → BitVec 8
  | .invalidParameter p => paramNumber p
  | .malformedRecord => 0
  | .invalidChunkSize => 0
  | .illegalOperation => 0
  | .malformedDescriptorStream => 0
  | .protocolViolation => 0
  | .reservedDescriptor => 0
  | .bufferOverflow => 0

/-- `RCLASS` NONE (10_state.md R37). -/
def classNone : Word := 0

/-- `RCLASS` OK (10_state.md R37). -/
def classOk : Word := 1

/-- `RCLASS` ERROR (10_state.md R37). -/
def classError : Word := 2

/-- `RCLASS` UNKNOWN (10_state.md R37). -/
def classUnknown : Word := 3

/-- What a 32-bit register shows for a count: the count itself below 2^32, a free value from there on,
where no rule states one (00_scope.md R15; log 9). -/
def countWord (n : Nat) : Word :=
  if n < 2 ^ 32 then BitVec.ofNat 32 n else Config.wideCount n

/-- `OUTCNT = len(OUTQ)` (10_state.md R32). -/
abbrev outcnt (s : State) : Nat := s.outq.length

/-- `INLEN = len(IN)` (10_state.md R39, R46). -/
abbrev inlen (s : State) : Nat := s.inBuf.length

/-- `STATUS.MORE`: READY and `OUTIDX < OUTCNT` (10_state.md R30). -/
def more (s : State) : Bool := decide (s.st = .ready) && decide (s.outidx < outcnt s)

/-- `OUTLEN`: the length of `OUTQ[OUTIDX]` when `MORE` is 1, else 0 (10_state.md R34). -/
def outlen (s : State) : Nat := if more s then (s.outq.getD s.outidx []).length else 0

/-- The two bits of `STATUS.STATE` (10_state.md R30). -/
def stateBits : BlockState → BitVec 2
  | .idle => 0
  | .ready => 1
  | .fault => 2

/-- `STATUS`: bits 1:0 `STATE`, bit 2 `MORE`, the rest 0 (10_state.md R30). -/
def statusWord (s : State) : Word :=
  (0 : BitVec 29) ++ BitVec.ofBool (more s) ++ stateBits s.st

/-- `FAULT`: bits 7:0 `CODE`, bits 15:8 `PARAM`, the rest 0 (10_state.md R31). -/
def faultWord (s : State) : Word := (0 : BitVec 16) ++ s.faultParam ++ s.faultCode

end Sys2Proof.Machine
end

