-- ==== Sys2Proof/Machine/Ops.lean ====
section
/-! DEFINITION. The shared operations: raising a fault and returning from one, completing a command, the
frame every operation command runs in, LOAD, and presenting a wire unit. -/

namespace Sys2Proof.Machine

/-- Fault entry, "what `raise F(p)` does" (60_exceptions.md R286): nothing in FAULT; otherwise STATE, CODE and
PARAM are written and the queue is emptied, and everything else keeps its value. -/
def raise (f : BlockFault) (s : State) : State :=
  match s.st with
  | .fault => s
  | .idle | .ready =>
    { s with
      st := .fault, faultCode := faultCodeOf f, faultParam := faultParamOf f, outq := [], outidx := 0 }

/-- Return from a fault, and the end of a result (44_control_ops.md R235, 60_exceptions.md R288). -/
def clear (s : State) : State :=
  { s with st := .idle, faultCode := 0, faultParam := 0, outq := [], outidx := 0 }

/-- The values a reply command writes into the result registers (10_state.md R35 to R38). -/
structure ReplyRegs where
  rsize : Word
  rrecid : Word
  rclass : Word
  rcode : Word
  deriving DecidableEq, Repr

/-- What a successful command leaves: its whole queue (20_memory.md R76) and, for REC.DEC and REC.CLS, the
result registers. -/
structure OpResult where
  outq : List Datagram
  reply : Option ReplyRegs
  deriving DecidableEq, Repr

/-- Writing the result registers, or leaving them as they were (10_state.md R35 to R38). -/
def writeReply (r : Option ReplyRegs) (s : State) : State :=
  match r with
  | none => s
  | some q => { s with rsize := q.rsize, rrecid := q.rrecid, rclass := q.rclass, rcode := q.rcode }

/-- A command's last act: the queue written whole, `OUTIDX <- 0`, `STATE <- READY`
(10_state.md R41, 40_record_codec.md R130). -/
def finish (r : OpResult) (s : State) : State :=
  { writeReply r.reply s with st := .ready, outq := r.outq, outidx := 0 }

/-- An operation command: ProtocolViolation outside IDLE, then its own tests and result
(44_control_ops.md R231, 60_exceptions.md R289). -/
def runOp (op : State → Except BlockFault OpResult) (s : State) : State :=
  match s.st with
  | .idle =>
    match op s with
    | .ok r => finish r s
    | .error f => raise f s
  | .ready => raise .protocolViolation s
  | .fault => s

/-- A capacity test: `n` bytes exceed `MAX_STREAM_BYTES` (60_exceptions.md R285). -/
def overCapacity (cfg : BlockConfig) (n : Nat) : Bool :=
  match cfg.maxStream with
  | none => false
  | some cap => decide (cap < n)

/-- LOAD (44_control_ops.md R237). -/
def doLoad (b : List Byte) (s : State) : State :=
  match s.st with
  | .fault => s
  | .ready => raise .protocolViolation s
  | .idle => if overCapacity s.cfg b.length then raise .bufferOverflow s else { s with inBuf := b }

/-- A wire unit presented to the block: LOAD of its bytes, then the command that reads the format, each as the
host would issue it (30_encoding.md R109; log 2). -/
def presentBytes (consumer : State → State) (b : List Byte) (s : State) : State :=
  consumer (doLoad b s)

end Sys2Proof.Machine
end

