-- ==== Sys2Proof/Machine/Control.lean ====
section
/-! DEFINITION. The control commands NOP, NEXT and CLR (44_control_ops.md). -/

namespace Sys2Proof.Machine

/-- NEXT as a state change (44_control_ops.md R233): refused in FAULT, ProtocolViolation without `MORE`, else
`OUTQ[OUTIDX]` is handed over whole and `OUTIDX` advances by 1. -/
def pullNext (s : State) : State :=
  match s.st with
  | .fault => s
  | .idle => raise .protocolViolation s
  | .ready =>
    if s.outidx < outcnt s then
      { s with handed := s.handed ++ [s.outq.getD s.outidx []], outidx := s.outidx + 1 }
    else raise .protocolViolation s

/-- NOP (44_control_ops.md R232): no state changes, in any state. -/
def execNop (s : State) : Host.Outcome State Fault Refusal := .next s

/-- NEXT (44_control_ops.md R233). -/
def execNext (s : State) : Host.Outcome State Fault Refusal := .next (pullNext s)

/-- CLR (44_control_ops.md R235). -/
def execClr (s : State) : Host.Outcome State Fault Refusal := .next (clear s)

end Sys2Proof.Machine
end

