-- ==== Sys2Proof/Machine/Operands.lean ====
section
/-! DEFINITION. The forms in which commands read `IN` (20_memory.md R75). Values are unsigned; every form
is used in range, after the tests of its command. -/

namespace Sys2Proof.Machine

/-- (a) The whole buffer, `IN[0 : INLEN]`. -/
abbrev wholeInput (s : State) : List Byte := s.inBuf

/-- (b) The first header field of a frame, `rd16(IN, 0)`. -/
abbrev frameSize (b : List Byte) : Nat := rd16 b 0

/-- (b) The second header field of a frame, `rd16(IN, 2)`. -/
abbrev frameId (b : List Byte) : Nat := rd16 b 2

/-- (b) The code of an acknowledgement frame, `rd16(IN, 4)`. -/
abbrev frameCode (b : List Byte) : Nat := rd16 b 4

/-- The framing test shared by REC.DEC and REC.CLS (60_exceptions.md R284). -/
def wellFramed (b : List Byte) : Bool := decide (4 ≤ b.length) && decide (frameSize b = b.length)

/-- (c) The descriptors of a stream: descriptor `k` is `rd16(IN, 2 * k)` (30_encoding.md R99). -/
def streamDescs (L : RleLayout) (b : List Byte) : List Desc :=
  (List.range (b.length / 2)).map fun k => wordDesc L (BitVec.ofNat 16 (rd16 b (2 * k)))

/-- `bpl = WIDTH / 8`, bytes per line (42_image_packetizer.md R181). -/
abbrev bytesPerLine (s : State) : Nat := s.width.toNat / 8

/-- `WIDTH` is above 0 and a multiple of 8 (41_rle_codec.md R162, 42_image_packetizer.md R185). -/
def widthOk (s : State) : Bool := decide (s.width.toNat ≠ 0) && decide (s.width.toNat % 8 = 0)

/-- (d) Row `k` of a raster: `IN[k * bpl : (k + 1) * bpl]`. -/
def rasterRow (data : List Byte) (bpl k : Nat) : List Byte := slice data (k * bpl) ((k + 1) * bpl)

/-- (e) The byte range of packet `i` in raw mode: `[i * bpp, (i + 1) * bpp)`. -/
def packetBytes (data : List Byte) (bpp i : Nat) : List Byte := slice data (i * bpp) ((i + 1) * bpp)

/-- (f) Slice `j` of a program: `IN[j * cs : min((j + 1) * cs, INLEN)]`. -/
def programSlice (data : List Byte) (cs j : Nat) : List Byte :=
  slice data (j * cs) (min ((j + 1) * cs) data.length)

end Sys2Proof.Machine
end

