-- ==== Sys2Proof/Machine/RleCodec.lean ====
section
/-! DEFINITION. The RLECodec commands RLE.DECROW, RLE.ENCROW and RLE.ENCIMG (41_rle_codec.md). -/

namespace Sys2Proof.Machine

/-- `expand(d)` (41_rle_codec.md R151): a solid fill for RLE, the literal byte for Raw; `transitionPos` and the
reserved bits have no part in it (R153, R154). -/
def expand : Desc → List Byte
  | .rle bit _ runLengthBytes => List.replicate runLengthBytes.toNat (if bit then 0xFF else 0x00)
  | .raw _ byteValue => [byteValue]

/-- `transitionPos` is not 0 and the policy refuses it (41_rle_codec.md R152, R153). -/
def reservedDesc (cfg : BlockConfig) : Desc → Bool
  | .rle _ transitionPos _ => decide (transitionPos ≠ 0) && decide (cfg.tpPolicy = .refuse)
  | .raw _ _ => false

/-- The loop of RLE.DECROW over the descriptors left, with `used` bytes already decoded: at each descriptor
ReservedDescriptor, then BufferOverflow, then its expansion (41_rle_codec.md R152, 60_exceptions.md R289). -/
def expandAll (cfg : BlockConfig) (used : Nat) : List Desc → Except BlockFault (List Byte)
  | [] => .ok []
  | d :: ds =>
    if reservedDesc cfg d then .error .reservedDescriptor
    else if overCapacity cfg (used + (expand d).length) then .error .bufferOverflow
    else
      match expandAll cfg (used + (expand d).length) ds with
      | .ok rest => .ok (expand d ++ rest)
      | .error f => .error f

/-- The tests and result of RLE.DECROW (41_rle_codec.md R152, R155). -/
def rleDecRowOp (s : State) : Except BlockFault OpResult :=
  let b := wholeInput s
  if b.length % 2 ≠ 0 then .error .malformedDescriptorStream
  else
    match expandAll s.cfg 0 (streamDescs s.cfg.layout b) with
    | .ok out => .ok { outq := [out], reply := none }
    | .error f => .error f

/-- The bits of a raster byte, most significant first (20_memory.md R61). -/
def byteBits (v : Byte) : List Bool :=
  [v.getLsbD 7, v.getLsbD 6, v.getLsbD 5, v.getLsbD 4, v.getLsbD 3, v.getLsbD 2, v.getLsbD 1, v.getLsbD 0]

/-- A row as a bit sequence (20_memory.md R61). -/
def rowBits (row : List Byte) : List Bool := row.flatMap byteBits

/-- `run(row, p)` for the row cut at `p`: the number of leading bits equal to the first one, to the end of the
row at most (41_rle_codec.md R158). -/
def bitRun (row : List Byte) : Nat :=
  match rowBits row with
  | [] => 0
  | b :: bs => 1 + (bs.takeWhile (· == b)).length

/-- The loop of `encrow` over the rest of the row (41_rle_codec.md R158); `m` is `RLE_LEN_MAX`, and `fuel` bounds
the steps, each of which passes over at least one byte where `m` is above 0. -/
def encDescsFrom (m : Nat) : Nat → List Byte → List Desc
  | 0, _ => []
  | _ + 1, [] => []
  | fuel + 1, v :: rest =>
    let n := bitRun (v :: rest)
    if 8 ≤ n then
      let len := min (n / 8) m
      .rle (v.getLsbD 7) 0 (BitVec.ofNat 11 len) :: encDescsFrom m fuel ((v :: rest).drop len)
    else .raw 0 v :: encDescsFrom m fuel rest

/-- The descriptors of a row (41_rle_codec.md R158). -/
def encDescs (m : Nat) (row : List Byte) : List Desc := encDescsFrom m row.length row

/-- `encrow(row)`: the descriptor stream of a row (41_rle_codec.md R158, 30_encoding.md R99). -/
def encrow (c : BlockConfig) (row : List Byte) : List Byte :=
  (encDescs c.rleLenMax row).flatMap (descBytes c.layout)

/-- The tests and result of RLE.ENCROW (41_rle_codec.md R158, R162). -/
def rleEncRowOp (s : State) : Except BlockFault OpResult :=
  let row := wholeInput s
  if !widthOk s then .error (.invalidParameter .width)
  else if row.length ≠ bytesPerLine s then .error (.invalidParameter .rowLength)
  else .ok { outq := [encrow s.cfg row], reply := none }

/-- The descriptor streams of a raster's rows, in row order (41_rle_codec.md R165, R166). -/
def encodedRows (c : BlockConfig) (data : List Byte) (bpl : Nat) : List (List Byte) :=
  (List.range (data.length / bpl)).map fun k => encrow c (rasterRow data bpl k)

/-- The tests and result of RLE.ENCIMG (41_rle_codec.md R165). -/
def rleEncImgOp (s : State) : Except BlockFault OpResult :=
  let data := wholeInput s
  if !widthOk s then .error (.invalidParameter .width)
  else if data.length % bytesPerLine s ≠ 0 then .error (.invalidParameter .rasterLength)
  else .ok { outq := encodedRows s.cfg data (bytesPerLine s), reply := none }

/-- RLE.DECROW as a state change. -/
def runRleDecRow (s : State) : State := runOp rleDecRowOp s

/-- RLE.ENCROW as a state change. -/
def runRleEncRow (s : State) : State := runOp rleEncRowOp s

/-- RLE.ENCIMG as a state change. -/
def runRleEncImg (s : State) : State := runOp rleEncImgOp s

/-- RLE.ENCROW (41_rle_codec.md R158). -/
def execRleEncRow (s : State) : Host.Outcome State Fault Refusal := .next (runRleEncRow s)

/-- RLE.DECROW (41_rle_codec.md R152). -/
def execRleDecRow (s : State) : Host.Outcome State Fault Refusal := .next (runRleDecRow s)

/-- RLE.ENCIMG (41_rle_codec.md R165). -/
def execRleEncImg (s : State) : Host.Outcome State Fault Refusal := .next (runRleEncImg s)

end Sys2Proof.Machine
end

