-- ==== Sys2Proof/Machine/ImagePacketizer.lean ====
section
/-! DEFINITION. The ImagePacketizer commands IMG.PKT.RAW and IMG.PKT.RLE (42_image_packetizer.md). -/

namespace Sys2Proof.Machine

/-- `bpp = LPP * bpl`, bytes per packet in raw mode (42_image_packetizer.md R181). -/
abbrev bytesPerPacket (s : State) : Nat := s.lpp.toNat * bytesPerLine s

/-- `numPackets = totalLines / LPP` (42_image_packetizer.md R181, R188). -/
abbrev rawPacketCount (s : State) : Nat := ((wholeInput s).length / bytesPerLine s) / s.lpp.toNat

/-- Packet `i` of IMG.PKT.RAW (30_encoding.md R100, 42_image_packetizer.md R182, R191). -/
def rawPacket (s : State) (i : Nat) : Datagram :=
  imgRawPacket Config.imgRawTag.toNat i s.inum.toNat (i * s.lpp.toNat)
    (packetBytes (wholeInput s) (bytesPerPacket s) i)

/-- The tests, in their numbered order, and the result of IMG.PKT.RAW (42_image_packetizer.md R182). -/
def imgPktRawOp (s : State) : Except BlockFault OpResult :=
  let data := wholeInput s
  if s.inum.toNat > s.cfg.inumMax then .error (.invalidParameter .inum)
  else if !widthOk s then .error (.invalidParameter .width)
  else if data.length % bytesPerLine s ≠ 0 then .error (.invalidParameter .rasterLength)
  else if s.lpp.toNat = 0 then .error (.invalidParameter .linesPerPacket)
  else if data.length % bytesPerPacket s ≠ 0 then .error (.invalidParameter .packetMultiple)
  else if s.cfg.rawHdrBytes + bytesPerPacket s > s.cfg.rawDgramMax then
    .error (.invalidParameter .packetSize)
  else if rawPacketCount s > 65536 then .error (.invalidParameter .packetCount)
  else .ok { outq := (List.range (rawPacketCount s)).map (rawPacket s), reply := none }

/-- The number of rows of the raster, one packet each in RLE mode (42_image_packetizer.md R181). -/
abbrev rowCount (s : State) : Nat := (wholeInput s).length / bytesPerLine s

/-- `pl_k`, the payload of packet `k` of IMG.PKT.RLE (42_image_packetizer.md R193, R195, R196). -/
def rlePayload (s : State) (k : Nat) : List Byte :=
  imgRlePayload (k + 1) s.inum.toNat k
    (encrow s.cfg (rasterRow (wholeInput s) (bytesPerLine s) k))

/-- Packet `k` of IMG.PKT.RLE: a Record frame (30_encoding.md R101, 42_image_packetizer.md R200). -/
def rlePacket (s : State) (k : Nat) : Datagram :=
  recordFrame Config.imgRleRecid.toNat (rlePayload s k)

/-- Test 5 fails at some row; it is made for every row before any packet is produced
(42_image_packetizer.md R198, R199). -/
def somePayloadTooLarge (s : State) : Bool :=
  (List.range (rowCount s)).any fun k => decide ((rlePayload s k).length > s.cfg.rlePayloadMax)

/-- The tests, in their numbered order, and the result of IMG.PKT.RLE (42_image_packetizer.md R193); `LPP` is
not read (R194). -/
def imgPktRleOp (s : State) : Except BlockFault OpResult :=
  if s.inum.toNat > s.cfg.inumMax then .error (.invalidParameter .inum)
  else if !widthOk s then .error (.invalidParameter .width)
  else if (wholeInput s).length % bytesPerLine s ≠ 0 then .error (.invalidParameter .rasterLength)
  else if rowCount s > 65535 then .error (.invalidParameter .packetCount)
  else if somePayloadTooLarge s then .error (.invalidParameter .packetSize)
  else .ok { outq := (List.range (rowCount s)).map (rlePacket s), reply := none }

/-- IMG.PKT.RAW as a state change. -/
def runImgPktRaw (s : State) : State := runOp imgPktRawOp s

/-- IMG.PKT.RLE as a state change. -/
def runImgPktRle (s : State) : State := runOp imgPktRleOp s

/-- IMG.PKT.RAW (42_image_packetizer.md R182). -/
def execImgPktRaw (s : State) : Host.Outcome State Fault Refusal := .next (runImgPktRaw s)

/-- IMG.PKT.RLE (42_image_packetizer.md R193). -/
def execImgPktRle (s : State) : Host.Outcome State Fault Refusal := .next (runImgPktRle s)

end Sys2Proof.Machine
end

