-- ==== Sys2Proof/Machine/RecordCodec.lean ====
section
/-! DEFINITION. The RecordCodec commands REC.ENC, REC.DEC and REC.CLS (40_record_codec.md). -/

namespace Sys2Proof.Machine

/-- `c == ACK_OK_CODE`. `ACK_OK_CODE` is any code but 0x2710 (40_record_codec.md R141): the free constant, or the
suggested 0x0000 where the constant is 0x2710 (log 6). -/
def isAckOk (c : BitVec 16) : Bool :=
  c != 0x2710 && (c == Config.ackOkRaw || (Config.ackOkRaw == 0x2710 && c == 0x0000))

/-- `REPLY_TABLE`: the one entry the spec gives, nothing at `ACK_OK_CODE`, any other entries
(10_state.md R42, 40_record_codec.md R141; log 6). -/
def replyName (c : BitVec 16) : Option String :=
  if c = 0x2710 then some "Invalid inum size"
  else if isAckOk c then none
  else Config.replyRaw c

/-- The tests and result of REC.ENC (40_record_codec.md R131, R132). -/
def recEncOp (s : State) : Except BlockFault OpResult :=
  let p := wholeInput s
  if s.recid.toNat > 65535 then .error (.invalidParameter .recordId)
  else if 4 + p.length > 65535 then .error (.invalidParameter .payloadLength)
  else .ok { outq := [recordFrame s.recid.toNat p], reply := none }

/-- The tests and result of REC.DEC (40_record_codec.md R134, R135). -/
def recDecOp (s : State) : Except BlockFault OpResult :=
  let b := wholeInput s
  if wellFramed b then
    .ok
      { outq := [b.drop 4]
        reply := some
          { rsize := BitVec.ofNat 32 (frameSize b), rrecid := BitVec.ofNat 32 (frameId b)
            rclass := classNone, rcode := 0 } }
  else .error .malformedRecord

/-- An acknowledgement frame: exactly 6 bytes with id `ACK_RECID` (40_record_codec.md R138). -/
def isAckFrame (ackRecid : BitVec 16) (b : List Byte) : Bool :=
  decide (b.length = 6) && decide (frameId b = ackRecid.toNat)

/-- The class of a reply code, in the order of 40_record_codec.md R137. -/
def classOfCode (c : BitVec 16) : Word :=
  if isAckOk c then classOk
  else if (replyName c).isSome then classError
  else classUnknown

/-- `RCLASS` of a well-framed reply (40_record_codec.md R137). -/
def replyClass (ackRecid : BitVec 16) (b : List Byte) : Word :=
  if isAckFrame ackRecid b then classOfCode (BitVec.ofNat 16 (frameCode b)) else classUnknown

/-- `RCODE` of a well-framed reply (10_state.md R38). -/
def replyCode (ackRecid : BitVec 16) (b : List Byte) : Word :=
  if isAckFrame ackRecid b then BitVec.ofNat 32 (frameCode b) else 0

/-- The tests and result of REC.CLS (40_record_codec.md R137, R142); the raw frame is handed over for an
unknown reply only (R140). -/
def recClsOp (s : State) : Except BlockFault OpResult :=
  let b := wholeInput s
  if wellFramed b then
    .ok
      { outq := if replyClass s.cfg.ackRecid b = classUnknown then [b] else []
        reply := some
          { rsize := BitVec.ofNat 32 (frameSize b), rrecid := BitVec.ofNat 32 (frameId b)
            rclass := replyClass s.cfg.ackRecid b, rcode := replyCode s.cfg.ackRecid b } }
  else .error .malformedRecord

/-- REC.ENC as a state change. -/
def runRecEnc (s : State) : State := runOp recEncOp s

/-- REC.DEC as a state change. -/
def runRecDec (s : State) : State := runOp recDecOp s

/-- REC.CLS as a state change. -/
def runRecCls (s : State) : State := runOp recClsOp s

/-- REC.ENC (40_record_codec.md R131). -/
def execRecEnc (s : State) : Host.Outcome State Fault Refusal := .next (runRecEnc s)

/-- REC.DEC (40_record_codec.md R134). -/
def execRecDec (s : State) : Host.Outcome State Fault Refusal := .next (runRecDec s)

/-- REC.CLS (40_record_codec.md R137). -/
def execRecCls (s : State) : Host.Outcome State Fault Refusal := .next (runRecCls s)

end Sys2Proof.Machine
end

