-- ==== Sys2Proof/Machine/SequencePacketizer.lean ====
section
/-! DEFINITION. The SequencePacketizer command SEQ.PKT (43_sequence_packetizer.md). -/

namespace Sys2Proof.Machine

/-- The chunk size test: above 0, a multiple of 8, whole datagram within `SEQ_DGRAM_MAX`
(43_sequence_packetizer.md R212). -/
def chunkSizeOk (c : BlockConfig) (cs : Nat) : Bool :=
  decide (cs ≠ 0) && decide (cs % 8 = 0) && decide (cs + c.seqHdrBytes ≤ c.seqDgramMax)

/-- `total = ceil(len / cs)` (43_sequence_packetizer.md R214, 00_scope.md R8). -/
abbrev chunkCount (len cs : Nat) : Nat := (len + cs - 1) / cs

/-- Chunk `j` of a program (30_encoding.md R102, 43_sequence_packetizer.md R211). -/
def chunkOf (prog : List Byte) (cs j : Nat) : Datagram :=
  chunkDatagram Config.seqTag.toNat (j + 1) (chunkCount prog.length cs) (programSlice prog cs j)

/-- The tests, in their numbered order, and the result of SEQ.PKT (43_sequence_packetizer.md R211). -/
def seqPktOp (s : State) : Except BlockFault OpResult :=
  let prog := wholeInput s
  let cs := s.chunk.toNat
  if !chunkSizeOk s.cfg cs then .error .invalidChunkSize
  else if chunkCount prog.length cs > 65535 then .error (.invalidParameter .packetCount)
  else .ok { outq := (List.range (chunkCount prog.length cs)).map (chunkOf prog cs), reply := none }

/-- SEQ.PKT as a state change. -/
def runSeqPkt (s : State) : State := runOp seqPktOp s

/-- SEQ.PKT (43_sequence_packetizer.md R211). -/
def execSeqPkt (s : State) : Host.Outcome State Fault Refusal := .next (runSeqPkt s)

end Sys2Proof.Machine
end

