-- ==== Sys2Proof/Machine/WireFormats.lean ====
section
/-! DEFINITION. The wire-format rows of the opcode table. They are no commands (30_encoding.md, opening); the
meaning given to one is that the host presents a unit of the format: LOAD of its bytes, then the command the
spec names for reading the format. Each is two host actions of 44_control_ops.md R230 (one for PKT.IMGRAW), in
every state with the effect those two have. DESIGN CHOICE, log 2 and log 3. -/

namespace Sys2Proof.Machine

/-- The command that reads a presented format. FRAME.RECORD: REC.DEC (40_record_codec.md R134). FRAME.ACK:
REC.CLS (R137). Descriptors: RLE.DECROW (41_rle_codec.md R152). PKT.IMGRLE and CHUNK.SEQ are Record frames that
REC.DEC accepts (42_image_packetizer.md R200, 43_sequence_packetizer.md R216). No command reads PKT.IMGRAW, whose
tag no rule splits (42 R183): it is loaded and nothing more. -/
def consumerOf : WireFormat → State → State
  | .frameRecord => runRecDec
  | .frameAck => runRecCls
  | .desc16 => runRleDecRow
  | .pktImgRaw => id
  | .pktImgRle => runRecDec
  | .chunkSeq => runRecDec

/-- FRAME.RECORD (30_encoding.md R94; 40_record_codec.md R134). -/
def execFrameRecord (recordId : BitVec 16) (payload : List Byte) (s : State) :
    Host.Outcome State Fault Refusal :=
  .next (presentBytes runRecDec (recordFrame recordId.toNat payload) s)

/-- FRAME.ACK (30_encoding.md R96; 40_record_codec.md R137). -/
def execFrameAck (code : BitVec 16) (s : State) : Host.Outcome State Fault Refusal :=
  .next (presentBytes runRecCls (ackFrame s.cfg.ackRecid code.toNat) s)

/-- DESC.RLE (30_encoding.md R97; 41_rle_codec.md R151, R152). -/
def execDescRle (bit : Bool) (transitionPos : BitVec 3) (runLengthBytes : BitVec 11) (s : State) :
    Host.Outcome State Fault Refusal :=
  .next (presentBytes runRleDecRow (descBytes s.cfg.layout (.rle bit transitionPos runLengthBytes)) s)

/-- DESC.RAW (30_encoding.md R98; 41_rle_codec.md R151, R152). -/
def execDescRaw (reserved : BitVec 7) (byteValue : Byte) (s : State) :
    Host.Outcome State Fault Refusal :=
  .next (presentBytes runRleDecRow (descBytes s.cfg.layout (.raw reserved byteValue)) s)

/-- PKT.IMGRAW (30_encoding.md R100): loaded; no command of the block reads it. -/
def execPktImgRaw (sequenceIndex inum : BitVec 16) (lineOffset : BitVec 48) (payload : List Byte)
    (s : State) : Host.Outcome State Fault Refusal :=
  .next (presentBytes id
    (imgRawPacket Config.imgRawTag.toNat sequenceIndex.toNat inum.toNat lineOffset.toNat payload) s)

/-- PKT.IMGRLE (30_encoding.md R101; 42_image_packetizer.md R200). -/
def execPktImgRle (seqNo inum : BitVec 16) (lineOffset : BitVec 32) (encodedRowBytes : List Byte)
    (s : State) : Host.Outcome State Fault Refusal :=
  .next (presentBytes runRecDec
    (recordFrame Config.imgRleRecid.toNat
      (imgRlePayload seqNo.toNat inum.toNat lineOffset.toNat encodedRowBytes)) s)

/-- CHUNK.SEQ (30_encoding.md R102; 43_sequence_packetizer.md R216). -/
def execChunkSeq (chunkIndex totalChunks : BitVec 16) (data : List Byte) (s : State) :
    Host.Outcome State Fault Refusal :=
  .next (presentBytes runRecDec
    (chunkDatagram Config.seqTag.toNat chunkIndex.toNat totalChunks.toNat data) s)

end Sys2Proof.Machine
end

