-- ==== Sys2Proof/Machine/Dispatch.lean ====
section
/-! DEFINITION. The one dispatch from an instruction to its meaning. -/

namespace Sys2Proof.Machine

def exec (i : Instr) (s : State) : Host.Outcome State Fault Refusal :=
  match i with
  | .nop => Sys2Proof.Machine.execNop s
  | .recEnc => Sys2Proof.Machine.execRecEnc s
  | .recDec => Sys2Proof.Machine.execRecDec s
  | .recCls => Sys2Proof.Machine.execRecCls s
  | .rleEncRow => Sys2Proof.Machine.execRleEncRow s
  | .rleDecRow => Sys2Proof.Machine.execRleDecRow s
  | .rleEncImg => Sys2Proof.Machine.execRleEncImg s
  | .imgPktRaw => Sys2Proof.Machine.execImgPktRaw s
  | .imgPktRle => Sys2Proof.Machine.execImgPktRle s
  | .seqPkt => Sys2Proof.Machine.execSeqPkt s
  | .next => Sys2Proof.Machine.execNext s
  | .clr => Sys2Proof.Machine.execClr s
  | .frameRecord recordId payload => Sys2Proof.Machine.execFrameRecord recordId payload s
  | .frameAck code => Sys2Proof.Machine.execFrameAck code s
  | .descRle bit transitionPos runLengthBytes => Sys2Proof.Machine.execDescRle bit transitionPos runLengthBytes s
  | .descRaw reserved byteValue => Sys2Proof.Machine.execDescRaw reserved byteValue s
  | .pktImgRaw sequenceIndex inum lineOffset payload => Sys2Proof.Machine.execPktImgRaw sequenceIndex inum lineOffset payload s
  | .pktImgRle seqNo inum lineOffset encodedRowBytes => Sys2Proof.Machine.execPktImgRle seqNo inum lineOffset encodedRowBytes s
  | .chunkSeq chunkIndex totalChunks data => Sys2Proof.Machine.execChunkSeq chunkIndex totalChunks data s

end Sys2Proof.Machine
end

