-- ==== Sys2Proof/Machine/HostActions.lean ====
section
/-! DEFINITION. The host actions that are no command: SEEK, SET, READ, RESET and the ignored register
writes, through the register map (20_memory.md R68, 44_control_ops.md R236 to R240). LOAD is in Ops. -/

namespace Sys2Proof.Machine

/-- The registers of the map (20_memory.md R68). -/
inductive Reg where
  | cmd
  | status
  | fault
  | outcnt
  | outidx
  | outlen
  | recid
  | inum
  | width
  | lpp
  | chunk
  | inlen
  | rsize
  | rrecid
  | rclass
  | rcode
  deriving DecidableEq, Repr

/-- The register map; an offset it does not list is reserved (20_memory.md R68; log 10). -/
def regAt : Nat → Option Reg
  | 0x00 => some .cmd
  | 0x04 => some .status
  | 0x08 => some .fault
  | 0x0C => some .outcnt
  | 0x10 => some .outidx
  | 0x14 => some .outlen
  | 0x20 => some .recid
  | 0x24 => some .inum
  | 0x28 => some .width
  | 0x2C => some .lpp
  | 0x30 => some .chunk
  | 0x34 => some .inlen
  | 0x40 => some .rsize
  | 0x44 => some .rrecid
  | 0x48 => some .rclass
  | 0x4C => some .rcode
  | _ => none

/-- The value a register shows (10_state.md R22, R29 to R39; 44_control_ops.md R239). -/
def regValue (s : State) : Reg → Word
  | .cmd => 0
  | .status => statusWord s
  | .fault => faultWord s
  | .outcnt => countWord (outcnt s)
  | .outidx => countWord s.outidx
  | .outlen => countWord (outlen s)
  | .recid => s.recid
  | .inum => s.inum
  | .width => s.width
  | .lpp => s.lpp
  | .chunk => s.chunk
  | .inlen => countWord (inlen s)
  | .rsize => s.rsize
  | .rrecid => s.rrecid
  | .rclass => s.rclass
  | .rcode => s.rcode

/-- The value at an offset: a register's, or 0 where reserved (20_memory.md R68). -/
def valueAt (offset : Nat) (s : State) : Word :=
  match regAt offset with
  | some r => regValue s r
  | none => 0

/-- READ (44_control_ops.md R239): the value goes to the host, nothing else happens, in every state. -/
def doRead (offset : Nat) (s : State) : State := { s with reads := s.reads ++ [valueAt offset s] }

/-- SEEK (44_control_ops.md R236): a write of all 32 bits of `v` to `OUTIDX`. -/
def doSeek (v : Word) (s : State) : State :=
  match s.st with
  | .fault => s
  | .idle => raise .protocolViolation s
  | .ready => if v.toNat > outcnt s then raise .protocolViolation s else { s with outidx := v.toNat }

/-- What a parameter register of `PARAM_BITS` bits (10_state.md R22) holds of a written value: the value itself where
it has no more bits, as every value at R5's 32, and else some value of that width, which no rule states: a free
value, log 25. -/
def fitParam (c : BlockConfig) (v : Word) : Word :=
  if v.toNat < 2 ^ c.paramBits then v
  else BitVec.ofNat 32 ((Config.narrowed c.paramBits v).toNat % 2 ^ c.paramBits)

/-- SET (44_control_ops.md R238): `write` is the assignment to the parameter register, made in IDLE only. -/
def doSet (write : State → State) (s : State) : State :=
  match s.st with
  | .fault => s
  | .ready => raise .protocolViolation s
  | .idle => write s

/-- A host write to a register other than `CMD`: SEEK, SET, or ignored in every state (44_control_ops.md R236,
R238). A write of `CMD` is a command and is not this operation's. -/
def writeReg (v : Word) : Reg → State → State
  | .outidx, s => doSeek v s
  | .recid, s => doSet (fun t => { t with recid := fitParam t.cfg v }) s
  | .inum, s => doSet (fun t => { t with inum := fitParam t.cfg v }) s
  | .width, s => doSet (fun t => { t with width := fitParam t.cfg v }) s
  | .lpp, s => doSet (fun t => { t with lpp := fitParam t.cfg v }) s
  | .chunk, s => doSet (fun t => { t with chunk := fitParam t.cfg v }) s
  | .cmd, s => s
  | .status, s => s
  | .fault, s => s
  | .outcnt, s => s
  | .outlen, s => s
  | .inlen, s => s
  | .rsize, s => s
  | .rrecid, s => s
  | .rclass, s => s
  | .rcode, s => s

/-- A host write to an offset other than `CMD`'s; a reserved offset ignores it (20_memory.md R68). -/
def writeAt (offset : Nat) (v : Word) (s : State) : State :=
  match regAt offset with
  | some r => writeReg v r s
  | none => s

/-- RESET (44_control_ops.md R240, 70_reset_and_hazards.md R320): all state of the block takes its reset value,
`CHUNK` the parameter `DEFAULT_CHUNK` (10_state.md R45).
The parameters of a run are not reset (R320), and what the host holds is the host's (log 12). -/
def doReset (s : State) : State :=
  { State.reset with
    chunk := s.cfg.defaultChunk
    cfg := s.cfg, pending := s.pending, handed := s.handed, reads := s.reads, session := s.session
    reports := s.reports }

end Sys2Proof.Machine
end

