-- ==== Sys2Proof/Machine/Session.lean ====
section
/-! DEFINITION. The host's transfer session over the block (46_host_transfer_session.md). spec/00_scope.md R3 puts
it outside the block; it is here as the block's environment. Every use it makes of the block is a sequence of
host actions of 44_control_ops.md R230. Logs 14 to 17 and 21 to 24. -/

namespace Sys2Proof.Machine

/-- The five setup records in order (46_host_transfer_session.md R253). -/
def primingList (p : PrimingRecords) : List CommandRecord :=
  [p.selectMode, p.setSlotSize, p.resetSequenceCounter, p.haltSequencer, p.resetSequencer]

/-- `FIRST_INDEX`, the index field of `OUTQ[0]` (46_host_transfer_session.md R258, R265). -/
def firstIndex : Packetizer → Nat
  | .imgRaw => 0
  | .imgRle => 1
  | .seq => 1

/-- The packetizer command of a session (46_host_transfer_session.md R250). -/
def runPacketizer : Packetizer → State → State
  | .imgRaw => runImgPktRaw
  | .imgRle => runImgPktRle
  | .seq => runSeqPkt

/-- LOAD of the session's data and its packetizer command (46_host_transfer_session.md R260; log 14). -/
def packetizeData (plan : SessionPlan) (s : State) : State :=
  runPacketizer plan.kind (doLoad plan.data s)

/-- A new session, in `Idle` (46_host_transfer_session.md R251); the timeout it is given is the run's `CMD_TIMEOUT`
(00_scope.md R5). The rule gives `sent` for a completed first burst only; that it holds 0 until then, and so where that
burst is broken off, is the model's: DESIGN CHOICE, log 22. -/
def newSession (c : BlockConfig) (plan : SessionPlan) : Session :=
  { plan := plan, transport := { toEndpoints := plan.endpoints, timeout := c.cmdTimeout }
    phase := .idle, left := [], sent := 0, retries := 0, failure := none
    inFlight := false, finalSent := false, gapFrame := [], cmdTx := [], dataTx := [] }

/-- `Complete` and `Failed` are terminal (46_host_transfer_session.md R252). -/
def terminal (p : Phase) : Bool := decide (p = .complete) || decide (p = .failed)

/-- Sending a request on the command channel and waiting for its reply (46_host_transfer_session.md R262). -/
def sendRequest (frame : Datagram) (ss : Session) : Session :=
  { ss with cmdTx := ss.cmdTx ++ [frame], inFlight := true }

/-- The state with the session replaced. -/
def withSession (ss : Session) (s : State) : State := { s with session := some ss }

/-- A session's end: the host issues CLR, the session `was` is destroyed, and the caller is told how it ended,
`ended` (46_host_transfer_session.md R250, R261; log 21). -/
def endSession (was ended : Session) (s : State) : State :=
  { clear s with session := none, reports := s.reports ++ [{ last := was.phase, session := ended }] }

/-- `phase <- Failed` (46_host_transfer_session.md R261). -/
def failSession (f : SessionFailure) (ss : Session) (s : State) : State :=
  endSession ss { ss with phase := .failed, failure := some f, inFlight := false } s

/-- `phase <- Complete` (46_host_transfer_session.md R250, R260). -/
def completeSession (ss : Session) (s : State) : State :=
  endSession ss { ss with phase := .complete, inFlight := false } s

/-- Cancellation: CLR between two datagrams, and no further turn of the session (46_host_transfer_session.md R263).
The rule gives an aborted session no phase; its report shows the phase it was in: DESIGN CHOICE, log 24. -/
def abortSession (ss : Session) (s : State) : State := endSession ss { ss with inFlight := false } s

/-- A record's frame made on the block: SET `RECID`, LOAD of the payload, REC.ENC (46_host_transfer_session.md R250,
R260). -/
def encodeRecord (r : CommandRecord) (s : State) : State :=
  runRecEnc (doLoad r.payload (doSet (fun t => { t with recid := fitParam t.cfg r.recordId }) s))

/-- REC.ENC, NEXT, CLR for one record (46_host_transfer_session.md R260): `go` on with the frame handed over. A REC.ENC
that faults is a block fault inside the session (R261). -/
def makeFrame (r : CommandRecord) (ss : Session) (go : Datagram → State → State) (s : State) : State :=
  let t := encodeRecord r s
  match t.st with
  | .ready => go (t.outq.getD t.outidx []) (clear (pullNext t))
  | .idle | .fault => failSession .transportError ss t

/-- A record made and sent as the one request in flight, the session going on as `after`
(46_host_transfer_session.md R254, R260, R262). -/
def issueRecord (r : CommandRecord) (after ss : Session) (s : State) : State :=
  makeFrame r ss (fun frame t => withSession (sendRequest frame after) t) s

/-- `Idle → Priming` (46_host_transfer_session.md R253, R260): the packetizer command once as a check, before any
transport I/O; a command that faults starts no session (R261); after CLR the first setup record is sent. R261 speaks of
the command alone: that a LOAD of the data that faults in the check (BufferOverflow, or ProtocolViolation from READY), and
a block found in FAULT, start no session either, the phase staying `Idle` and the block in FAULT, is the model's: DESIGN
CHOICE, log 26. -/
def startSession (ss : Session) (s : State) : State :=
  let checked := packetizeData ss.plan s
  match checked.st with
  | .ready =>
    issueRecord ss.plan.priming.selectMode
      { ss with phase := .priming, left := primingList ss.plan.priming } ss (clear checked)
  | .idle | .fault => checked

/-- `Priming → Transferring`: the packetizer command again, for the burst (46_host_transfer_session.md R255, R260).
A fault here is a block fault inside a session (R261). -/
def beginBurst (ss : Session) (s : State) : State :=
  let t := packetizeData ss.plan s
  match t.st with
  | .ready => withSession { ss with phase := .transferring, left := [], inFlight := false } t
  | .idle | .fault => failSession .transportError ss t

/-- After an OK in `Priming` (46_host_transfer_session.md R254, R260): the next setup record; after the fifth the gap
request's frame, made and kept, and then the burst. -/
def primingOk (ss : Session) (s : State) : State :=
  match ss.left.tail with
  | [] => makeFrame ss.plan.gapRequest ss (fun frame t => beginBurst { ss with gapFrame := frame } t) s
  | r :: rs => issueRecord r { ss with left := r :: rs } ss s

/-- A reply in `Priming` (46_host_transfer_session.md R254, R260), read by LOAD, REC.CLS and CLR: only OK goes on; any
other class, and MalformedRecord, is `PrimingFailed`. A LOAD that faults is a block fault inside the session (R261). -/
def primingReply (b : Datagram) (ss : Session) (s : State) : State :=
  let l := doLoad b s
  match l.st with
  | .idle =>
    let t := runRecCls l
    if t.st = .ready ∧ t.rclass = classOk then primingOk ss (clear t)
    else failSession (.primingFailed b) ss t
  | .ready | .fault => failSession .transportError ss l

/-- `GAP_PARSE`, "a parameter of the session" (46_host_transfer_session.md R257): the plan's table, and the free
constant for a payload the table does not list (log 16). -/
def parseGap (plan : SessionPlan) (payload : List Byte) : GapReply :=
  match plan.gapTable.find? (fun e => e.1 == payload) with
  | some e => e.2
  | none => Config.gapParse payload

/-- `G`, the number of leading packets the projector holds in order (46_host_transfer_session.md R258). -/
def goodCount (ss : Session) : GapReply → Nat
  | .noGap => ss.sent
  | .lastGood n => n + 1 - firstIndex ss.plan.kind

/-- `RETRY_CAP`, fixed for a run (00_scope.md R5, 10_state.md R21): the value the run names, or the OPEN constant
(log 6). -/
def retryCap (c : BlockConfig) : Nat :=
  match c.retryCap with
  | some n => n
  | none => Config.retryCapRaw

/-- `Verifying → Repairing` (46_host_transfer_session.md R259), in the rule's order: the phase, the retry counted, SEEK
to `G`. A SEEK that does not leave the block in READY is taken as a block fault inside the session (R261): DESIGN CHOICE,
log 26. -/
def beginRepair (g : Nat) (ss : Session) (s : State) : State :=
  let again := { ss with phase := .repairing, retries := ss.retries + 1, inFlight := false }
  let t := doSeek (BitVec.ofNat 32 g) s
  match t.st with
  | .ready => withSession again t
  | .idle | .fault => failSession .transportError again t

/-- The gap test and its three ends (46_host_transfer_session.md R258 to R260): the final record, a repair burst
from `G` within the cap, or failure. No rule says what a gap reply does that finds the block out of READY; that the test
is made all the same, `G = sent` going on to the final record and only SEEK failing, is the model's: DESIGN CHOICE,
log 26. -/
def gapTest (g : Nat) (ss : Session) (s : State) : State :=
  if g = ss.sent then issueRecord ss.plan.finalRecord { ss with finalSent := true } ss (clear s)
  else if g < ss.sent then
    if ss.retries = retryCap s.cfg then failSession .transferIncomplete ss s
    else beginRepair g ss s
  else failSession .transportError ss s

/-- The final record's reply (46_host_transfer_session.md R260, R261; log 15): classified by REC.CLS, the class
ignored; a reply the block faults on fails the session. -/
def finalReply (b : Datagram) (ss : Session) (s : State) : State :=
  let t := runRecCls (doLoad b s)
  match t.st with
  | .ready => completeSession ss t
  | .idle | .fault => failSession .transportError ss t

/-- A reply in `Verifying` (46_host_transfer_session.md R257, R260, R261): the final record's, or a gap reply, which
the host parses itself, its framing tested as REC.DEC would. -/
def verifyingReply (b : Datagram) (ss : Session) (s : State) : State :=
  if ss.finalSent then finalReply b ss s
  else if wellFramed b then gapTest (goodCount ss (parseGap ss.plan (b.drop 4))) ss s
  else failSession .transportError ss s

/-- A reply arrives (46_host_transfer_session.md R262); with no request in flight it is nothing. -/
def sessionReply (b : Datagram) (ss : Session) (s : State) : State :=
  if ss.inFlight then
    match ss.phase with
    | .priming => primingReply b ss s
    | .verifying => verifyingReply b ss s
    | .idle | .transferring | .repairing | .complete | .failed => s
  else s

/-- One turn of a burst (46_host_transfer_session.md R255, R256, R259): NEXT and one datagram sent unchanged on the
data channel while `MORE`; then `after` and the gap request, its kept frame (R257, R260). R265 does not state whether
the gap query applies to chunks: that a session of kind `seq` sends it and makes the gap test as one of image packets
does is the model's: DESIGN CHOICE, log 23. -/
def burstTurn (after : Session → Session) (ss : Session) (s : State) : State :=
  match s.st with
  | .ready =>
    if more s then
      withSession { ss with dataTx := ss.dataTx ++ [s.outq.getD s.outidx []] } (pullNext s)
    else withSession (sendRequest ss.gapFrame { after ss with phase := .verifying }) s
  | .idle | .fault => failSession .transportError ss s

/-- The host's next turn: of the first burst, after which `sent <- OUTCNT` (46_host_transfer_session.md R255), or of
a repair burst (R259). -/
def sessionAdvance (ss : Session) (s : State) : State :=
  match ss.phase with
  | .transferring => burstTurn (fun x => { x with sent := outcnt s }) ss s
  | .repairing => burstTurn id ss s
  | .idle | .priming | .verifying | .complete | .failed => s

/-- An event at a session that exists (46_host_transfer_session.md R252). -/
def sessionEvent (e : SessionEvent) (ss : Session) (s : State) : State :=
  match e with
  | .create plan => if terminal ss.phase then withSession (newSession s.cfg plan) s else s
  | .start => if ss.phase = .idle then startSession ss s else s
  | .reply b => sessionReply b ss s
  | .advance => sessionAdvance ss s
  | .timeout => if ss.inFlight ∧ terminal ss.phase = false then failSession .timeout ss s else s
  | .socketError => if terminal ss.phase then s else failSession .transportError ss s
  | .abort => if terminal ss.phase then s else abortSession ss s

/-- One turn of the host for a session event; without a session, only construction does anything
(46_host_transfer_session.md R250 to R263; log 17). -/
def sessionTurn (e : SessionEvent) (s : State) : State :=
  match s.session with
  | some ss => sessionEvent e ss s
  | none =>
    match e with
    | .create plan => withSession (newSession s.cfg plan) s
    | .start => s
    | .reply _ => s
    | .advance => s
    | .timeout => s
    | .socketError => s
    | .abort => s

end Sys2Proof.Machine
end

