-- ==== Sys2Proof/Machine/Fetch.lean ====
section
/-! DEFINITION. Taking the host's next action. The block fetches nothing (10_state.md R27): a command acts when
the host writes it, so what step fetches is the first of the host's actions not yet taken (log 1). -/

namespace Sys2Proof.Machine

/-- What an action gives the decoder: a write of `CMD` its value, a presented unit its bytes. -/
def unitOf : HostAction → Option CodeUnit
  | .write offset v => if regAt offset = some .cmd then some (.cmd v) else none
  | .present f b => some (.wire f b)
  | .read _ => none
  | .load _ => none
  | .reset => none
  | .session _ => none

/-- What happens where a unit does not decode: an illegal command word is IllegalOperation (30_encoding.md R93,
60_exceptions.md R283); bytes that are not of the format they are presented in go through the same two host
actions, whose own tests fault them (log 4). -/
def runUndecoded : CodeUnit → State → State
  | .cmd _, s => raise .illegalOperation s
  | .wire f b, s => presentBytes (consumerOf f) b s

/-- A unit is decoded first, before any state test (60_exceptions.md R289), and then executed. -/
def runUnit (u : CodeUnit) (s : State) : Host.Outcome State Fault Refusal :=
  match decode s.cfg u with
  | .ok i => exec i s
  | .error _ => .next (runUndecoded u s)

/-- A host action that gives the decoder nothing (44_control_ops.md R230). -/
def runPlain : HostAction → State → State
  | .write offset v, s => writeAt offset v s
  | .read offset, s => doRead offset s
  | .load b, s => doLoad b s
  | .reset, s => doReset s
  | .session e, s => sessionTurn e s
  | .present _ _, s => s

/-- One host action on the block (44_control_ops.md R230). -/
def runAction (a : HostAction) (s : State) : Host.Outcome State Fault Refusal :=
  match unitOf a with
  | some u => runUnit u s
  | none => .next (runPlain a s)

/-- The next action is taken from the host's list; with none the block waits, as it never acts on its own
(44_control_ops.md R230). -/
def takeAction (s : State) : Host.Outcome State Fault Refusal :=
  match s.pending with
  | [] => .next s
  | a :: rest => runAction a { s with pending := rest }

/-- The host action that puts a unit before the decoder. -/
def actionOf : CodeUnit → HostAction
  | .cmd w => .write 0x00 w
  | .wire f b => .present f b

/-- The host's actions with one more before them. -/
def pushUnit (u : CodeUnit) (s : State) : State := { s with pending := actionOf u :: s.pending }

end Sys2Proof.Machine
end

