-- ==== Sys2Proof/Machine/Step.lean ====
section
/-! DEFINITION. One step, and where step finds its next instruction. -/

namespace Sys2Proof.Machine

/-- One step: one host action, atomic (10_state.md R20, 44_control_ops.md R230). -/
def step (s : State) : Host.Outcome State Fault Refusal := takeAction s

/-- `s` with an instruction of the opcode table as the host's very next action. -/
def State.withFetchWord (s : State) (nbits w : Nat) : State := pushUnit (tableUnit nbits w) s

end Sys2Proof.Machine
end

