-- ==== Sys2Proof/Machine/RleReference.lean ====
section
/-! DEFINITION. The second statement of the compressor, by solid bytes instead of bit runs (41_rle_codec.md R160).
No meaning uses it; statements hold the first statement against it. -/

namespace Sys2Proof.Machine

/-- A byte of one colour: 0x00 or 0xFF (41_rle_codec.md R160). -/
def solid (v : Byte) : Bool := v == 0x00 || v == 0xFF

/-- The number of leading bytes equal to the first one. -/
def byteRun (row : List Byte) : Nat :=
  match row with
  | [] => 0
  | v :: rest => 1 + (rest.takeWhile (· == v)).length

/-- The loop of 41_rle_codec.md R160 over the rest of the row; `m` is `RLE_LEN_MAX`. -/
def bytewiseFrom (m : Nat) : Nat → List Byte → List Desc
  | 0, _ => []
  | _ + 1, [] => []
  | fuel + 1, v :: rest =>
    if solid v then
      let len := min (byteRun (v :: rest)) m
      .rle (v.getLsbD 7) 0 (BitVec.ofNat 11 len) :: bytewiseFrom m fuel ((v :: rest).drop len)
    else .raw 0 v :: bytewiseFrom m fuel rest

/-- The descriptors of a row by 41_rle_codec.md R160. -/
def bytewiseDescs (m : Nat) (row : List Byte) : List Desc := bytewiseFrom m row.length row

end Sys2Proof.Machine
end

