-- ==== Sys2Proof/Safety.lean ====
section
/-! DEFINITION. What counts as a safe run: the invariants of the state, which parts of the state an action keeps,
and the groups of instructions statements speak of. -/

namespace Sys2Proof.Machine

/-- The invariants of the block's state (10_state.md R46, with the ranges of R31, R35 to R38), and that the five
parameter registers and the value `CHUNK` resets to are within `PARAM_BITS` (R22). -/
structure BlockInv (s : State) : Prop where
  cursor : s.outidx ≤ outcnt s
  faultExactly : s.st = .fault ↔ s.faultCode ≠ 0
  queueOnlyReady : s.st ≠ .ready → s.outq = []
  queueBound : outcnt s ≤ max 65536 (inlen s)
  codeRange : s.faultCode.toNat ≤ 8
  paramRange : s.faultParam.toNat ≤ 10
  paramExactly : s.faultCode = 1 ↔ s.faultParam ≠ 0
  sizeRange : s.rsize = 0 ∨ (4 ≤ s.rsize.toNat ∧ s.rsize.toNat ≤ 65535)
  idRange : s.rrecid.toNat ≤ 65535
  classRange : s.rclass.toNat ≤ 3
  codeFieldRange : s.rcode.toNat ≤ 65535
  paramWidth : ∀ v ∈ [s.recid, s.inum, s.width, s.lpp, s.chunk, s.cfg.defaultChunk], v.toNat < 2 ^ s.cfg.paramBits

/-- The frame of a record: big-endian size and record id, as `RECID` holds it, then the payload (30_encoding.md R94). -/
def frameOf (c : BlockConfig) (r : CommandRecord) : Datagram :=
  be16 (4 + r.payload.length) ++ be16 (fitParam c r.recordId).toNat ++ r.payload

/-- The invariants of a session, ended or not, under the run's parameters (46_host_transfer_session.md R251, R252, R257,
R259, R260, R262; 10_state.md R21). -/
structure SessionInv (c : BlockConfig) (ss : Session) : Prop where
  retriesCapped : ss.retries ≤ retryCap c
  failureExactly : ss.failure.isSome = true ↔ ss.phase = .failed
  waitingPhase : ss.inFlight = true → ss.phase = .priming ∨ ss.phase = .verifying
  incompleteAtCap : ss.failure = some .transferIncomplete → ss.retries = retryCap c
  keptRequest : ss.phase = .transferring ∨ ss.phase = .verifying ∨ ss.phase = .repairing →
    ss.gapFrame = frameOf c ss.plan.gapRequest
  transportFixed : ss.transport = { toEndpoints := ss.plan.endpoints, timeout := c.cmdTimeout }

/-- The invariant of a state: the block's; its session's, which has not ended (46_host_transfer_session.md R250); and
that of every ended session, whose last successful phase is none that ends one (R252, R261). -/
structure MachineInv (s : State) : Prop where
  block : BlockInv s
  session : ∀ ss, s.session = some ss → SessionInv s.cfg ss ∧ terminal ss.phase = false
  reports : ∀ r ∈ s.reports, SessionInv s.cfg r.session ∧ terminal r.last = false

/-- The five parameter registers, the run's parameters and the input buffer are as before. -/
structure SameInputs (s t : State) : Prop where
  recid : t.recid = s.recid
  inum : t.inum = s.inum
  width : t.width = s.width
  lpp : t.lpp = s.lpp
  chunk : t.chunk = s.chunk
  cfg : t.cfg = s.cfg
  inBuf : t.inBuf = s.inBuf

/-- The result registers are as before. -/
structure SameReply (s t : State) : Prop where
  rsize : t.rsize = s.rsize
  rrecid : t.rrecid = s.rrecid
  rclass : t.rclass = s.rclass
  rcode : t.rcode = s.rcode

/-- The host's actions, readings and session are as before; what NEXT handed over is not spoken of. -/
structure SameHost (s t : State) : Prop where
  pending : t.pending = s.pending
  reads : t.reads = s.reads
  session : t.session = s.session
  reports : t.reports = s.reports

/-- The state after fault entry with these two numbers: nothing else written (60_exceptions.md R286). -/
def faulted (code param : BitVec 8) (s : State) : State :=
  { s with st := .fault, faultCode := code, faultParam := param, outq := [], outidx := 0 }

/-- The state after a command that wrote this queue and no result register (10_state.md R41). -/
def produced (q : List Datagram) (s : State) : State := { s with st := .ready, outq := q, outidx := 0 }

/-- The state after REC.DEC or REC.CLS accepted the frame in `IN`: its header in `RSIZE` and `RRECID`, the queue,
the class and the code given (40_record_codec.md R134, R137). -/
def replied (q : List Datagram) (cls code : Word) (s : State) : State :=
  { s with
    st := .ready, outq := q, outidx := 0
    rsize := BitVec.ofNat 32 (rd16 s.inBuf 0), rrecid := BitVec.ofNat 32 (rd16 s.inBuf 2)
    rclass := cls, rcode := code }

/-- What an operation command does in each state, `r` being what its own tests and result give in IDLE: outside IDLE
ProtocolViolation in READY, and nothing in FAULT (44_control_ops.md R231). -/
def stateTested (s r : State) : State :=
  match s.st with
  | .idle => r
  | .ready => faulted 6 0 s
  | .fault => s

/-- Two states agree on what an operation command reads: its row of 70_reset_and_hazards.md R324, and the run's
parameters. -/
def AgreeOn (i : Instr) (s u : State) : Prop :=
  s.inBuf = u.inBuf ∧ s.cfg = u.cfg ∧
    match i with
    | .recEnc => s.recid = u.recid
    | .rleEncRow | .rleEncImg => s.width = u.width
    | .imgPktRaw => s.inum = u.inum ∧ s.width = u.width ∧ s.lpp = u.lpp
    | .imgPktRle => s.inum = u.inum ∧ s.width = u.width
    | .seqPkt => s.chunk = u.chunk
    | .recDec | .recCls | .rleDecRow => True
    | .nop | .next | .clr => True
    | .frameRecord _ _ | .frameAck _ | .descRle _ _ _ | .descRaw _ _ | .pktImgRaw _ _ _ _
    | .pktImgRle _ _ _ _ | .chunkSeq _ _ _ => True

/-- The nine operation commands (44_control_ops.md R231). -/
def isOperation : Instr → Bool
  | .recEnc | .recDec | .recCls | .rleEncRow | .rleDecRow | .rleEncImg | .imgPktRaw | .imgPktRle
  | .seqPkt => true
  | .nop | .next | .clr => false
  | .frameRecord _ _ | .frameAck _ | .descRle _ _ _ | .descRaw _ _ | .pktImgRaw _ _ _ _
  | .pktImgRle _ _ _ _ | .chunkSeq _ _ _ => false

/-- The twelve commands (30_encoding.md R92). -/
def isCommand : Instr → Bool
  | .recEnc | .recDec | .recCls | .rleEncRow | .rleDecRow | .rleEncImg | .imgPktRaw | .imgPktRle
  | .seqPkt | .nop | .next | .clr => true
  | .frameRecord _ _ | .frameAck _ | .descRle _ _ _ | .descRaw _ _ | .pktImgRaw _ _ _ _
  | .pktImgRle _ _ _ _ | .chunkSeq _ _ _ => false

/-- One of the actions of 44_control_ops.md R230, not a host turn made of several. -/
def isSingle : HostAction → Bool
  | .write _ _ | .read _ | .load _ | .reset => true
  | .present _ _ | .session _ => false

/-- The capacity admits `n` bytes (00_scope.md R5, 60_exceptions.md R285). -/
def Fits (cfg : BlockConfig) (n : Nat) : Prop := ∀ cap, cfg.maxStream = some cap → n ≤ cap

/-- REC.ENC makes a frame of the record, whose id `RECID` holds, and the capacity admits its payload
(40_record_codec.md R132). -/
def Encodable (cfg : BlockConfig) (r : CommandRecord) : Prop :=
  (fitParam cfg r.recordId).toNat ≤ 65535 ∧ r.payload.length ≤ 65531 ∧ Fits cfg r.payload.length

/-- An acknowledgement with the OK code (40_record_codec.md R137, R138). -/
def OkReply (cfg : BlockConfig) (b : Datagram) : Prop :=
  b.length = 6 ∧ rd16 b 0 = 6 ∧ rd16 b 2 = cfg.ackRecid.toNat ∧ isAckOk (BitVec.ofNat 16 (rd16 b 4)) = true

/-- From `s` to `t` the session ended as `e`, having been in `last`: CLR was issued to the block, the session is
destroyed and its report is the newest (46_host_transfer_session.md R250, R261). -/
structure SessionEnds (s t : State) (last : Phase) (e : Session) : Prop where
  st : t.st = .idle
  faultCode : t.faultCode = 0
  faultParam : t.faultParam = 0
  outq : t.outq = []
  outidx : t.outidx = 0
  session : t.session = none
  reports : t.reports = s.reports ++ [{ last := last, session := e }]

/-- The instruction of a session's packetizer command (46_host_transfer_session.md R250, R265). -/
def packetizerOf : Packetizer → Instr
  | .imgRaw => .imgPktRaw
  | .imgRle => .imgPktRle
  | .seq => .seqPkt

/-- Whether a step goes on. -/
def goesOn (o : Host.Outcome State Fault Refusal) : Bool :=
  match o with
  | .next _ => true
  | .fault _ => false
  | .refused _ => false

/-- The next state, where there is one. -/
def nextOf (o : Host.Outcome State Fault Refusal) : Option State :=
  match o with
  | .next t => some t
  | .fault _ => none
  | .refused _ => none

/-- A state is safe when no number of steps stops the machine (60_exceptions.md R291). -/
def Safe (s : State) : Prop := ∀ k, goesOn (Sys2Proof.core.run k s) = true

end Sys2Proof.Machine
end

