-- ==== Sys2Proof/Certificates/Slice0/Obligations.lean ====
section
/-! DEFINITION. The statements for the provers. Fault numbers are those of 60_exceptions.md R281 and R282:
`faulted code param s` is `s` after fault entry with them and nothing else written (R286). In statements about `step`
the host's next action stands at the head of `pending` (log 1). -/

open Sys2Proof Sys2Proof.Machine

/-! ### Decoding and encoding -/

/-- 30_encoding.md R92, R93: the twelve command words, and that no other of the 2^32 values decodes. -/
def Obligations.CommandDecoderIsTheTable : Prop :=
  ∀ c : BlockConfig,
    decode c (.cmd 0x00) = .ok .nop ∧ decode c (.cmd 0x01) = .ok .recEnc ∧
    decode c (.cmd 0x02) = .ok .recDec ∧ decode c (.cmd 0x03) = .ok .recCls ∧
    decode c (.cmd 0x04) = .ok .rleEncRow ∧ decode c (.cmd 0x05) = .ok .rleDecRow ∧
    decode c (.cmd 0x06) = .ok .rleEncImg ∧ decode c (.cmd 0x08) = .ok .imgPktRaw ∧
    decode c (.cmd 0x18) = .ok .imgPktRle ∧ decode c (.cmd 0x09) = .ok .seqPkt ∧
    decode c (.cmd 0x0A) = .ok .next ∧ decode c (.cmd 0x0B) = .ok .clr ∧
    ∀ w : Word,
      w ∉ ([0x00, 0x01, 0x02, 0x03, 0x04, 0x05, 0x06, 0x08, 0x18, 0x09, 0x0A, 0x0B] : List Word) →
        ∃ e, decode c (.cmd w) = .error e

/-- 30_encoding.md R96 to R98 and R92: words written out from the encodings, under R5's values. -/
def Obligations.WrittenOutWordsDecode : Prop :=
  decodeTableWord 8 0x18 = some .imgPktRle ∧
  decodeTableWord 16 0xE802 = some (.descRle true 5 2) ∧
  decodeTableWord 16 0x87FF = some (.descRle false 0 2047) ∧
  decodeTableWord 16 0x7FA5 = some (.descRaw 0x7F 0xA5) ∧
  decodeTableWord 48 0x000601F52710 = some (.frameAck 0x2710) ∧
  decodeTableWord 32 0x00060065 = some (.frameRecord 0x65 [0, 0])

/-- Decoding what the encoder writes gives the instruction back, for every well-formed instruction of all nineteen
rows and all parameters that agree with the formats (30_encoding.md R92, R94 to R102; log 25). -/
def Obligations.DecodeOfEncodeIsTheInstruction : Prop :=
  ∀ (c : BlockConfig) (i : Instr), c.valid = true → i.wf c = true → decode c (encode c i) = .ok i

/-- What decodes is exactly what the encoder writes for it: no bit of a unit is dropped and no two units mean the
same instruction, under all parameters that agree with the formats (30_encoding.md R92, R94 to R102; log 25). -/
def Obligations.EncodeOfDecodeIsTheUnit : Prop :=
  ∀ (c : BlockConfig) (u : CodeUnit) (i : Instr),
    c.valid = true → decode c u = .ok i → i.wf c = true ∧ encode c i = u

/-- A step runs the decoded instruction: the host's next action is taken from its list and, where it is a unit that
decodes, exec runs on the state with that action taken (10_state.md R20, R27; log 1). -/
def Obligations.StepRunsTheDecodedInstruction : Prop :=
  ∀ (s : State) (rest : List HostAction) (i : Instr),
    (∀ w : Word, s.pending = .write 0x00 w :: rest → decode s.cfg (.cmd w) = .ok i →
      step s = exec i { s with pending := rest }) ∧
    (∀ (f : WireFormat) (b : List Byte), s.pending = .present f b :: rest →
      decode s.cfg (.wire f b) = .ok i → step s = exec i { s with pending := rest })

/-- 60_exceptions.md R283: a value written to `CMD` that is none of the twelve words raises IllegalOperation in
IDLE and in READY, and changes nothing in FAULT. -/
def Obligations.IllegalWordRaisesIllegalOperation : Prop :=
  ∀ (s : State) (w : Word) (rest : List HostAction),
    s.pending = .write 0x00 w :: rest →
    w.toNat ∉ [0x00, 0x01, 0x02, 0x03, 0x04, 0x05, 0x06, 0x08, 0x09, 0x0A, 0x0B, 0x18] →
      step s = .next (if s.st = .fault then { s with pending := rest }
        else faulted 4 0 { s with pending := rest })

/-! ### RecordCodec -/

/-- 40_record_codec.md R131, R132: what REC.ENC does, for every state, record id and payload. -/
def Obligations.RecEncFramesThePayload : Prop :=
  ∀ s : State,
    exec .recEnc s = .next (stateTested s
      (if 65535 < s.recid.toNat then faulted 1 7 s
       else if 65535 < 4 + s.inBuf.length then faulted 1 8 s
       else produced [be16 (4 + s.inBuf.length) ++ be16 s.recid.toNat ++ s.inBuf] s))

/-- 40_record_codec.md R134, R135: what REC.DEC does, for every state and input. -/
def Obligations.RecDecValidatesAndDecodes : Prop :=
  ∀ s : State,
    exec .recDec s = .next (stateTested s
      (if 4 ≤ s.inBuf.length ∧ rd16 s.inBuf 0 = s.inBuf.length then replied [s.inBuf.drop 4] 0 0 s
       else faulted 2 0 s))

/-- 40_record_codec.md R136: decode inverts encode, encode inverts decode, encode is injective. -/
def Obligations.EncodeAndDecodeAreInverse : Prop :=
  (∀ s : State, s.st = .idle → s.recid.toNat ≤ 65535 → s.inBuf.length ≤ 65531 →
    ∃ t b, exec .recEnc s = .next t ∧ t.st = .ready ∧ t.outq = [b] ∧
      ∀ u : State, u.st = .idle → u.inBuf = b →
        ∃ v, exec .recDec u = .next v ∧ v.st = .ready ∧ v.rrecid = s.recid ∧
          v.rsize.toNat = 4 + s.inBuf.length ∧ v.outq = [s.inBuf]) ∧
  (∀ s t : State, s.st = .idle → exec .recDec s = .next t → t.st = .ready →
    ∃ p, t.outq = [p] ∧
      ∀ u : State, u.st = .idle → u.recid = t.rrecid → u.inBuf = p →
        ∃ v, exec .recEnc u = .next v ∧ v.st = .ready ∧ v.outq = [s.inBuf]) ∧
  (∀ s u t v : State, s.st = .idle → u.st = .idle → s.recid.toNat ≤ 65535 → u.recid.toNat ≤ 65535 →
    s.inBuf.length ≤ 65531 → u.inBuf.length ≤ 65531 → exec .recEnc s = .next t →
    exec .recEnc u = .next v → t.outq = v.outq → s.recid = u.recid ∧ s.inBuf = u.inBuf)

/-- 40_record_codec.md R137, R138, R140, R142: what REC.CLS does, for every state and input and every `ACK_RECID`, which
is 0x01F5 by R5. -/
def Obligations.RecClsClassifiesTheReply : Prop :=
  ∀ s : State,
    exec .recCls s = .next (stateTested s
      (if 4 ≤ s.inBuf.length ∧ rd16 s.inBuf 0 = s.inBuf.length then
        if s.inBuf.length = 6 ∧ rd16 s.inBuf 2 = s.cfg.ackRecid.toNat then
          if isAckOk (BitVec.ofNat 16 (rd16 s.inBuf 4)) then
            replied [] 1 (BitVec.ofNat 32 (rd16 s.inBuf 4)) s
          else if (replyName (BitVec.ofNat 16 (rd16 s.inBuf 4))).isSome then
            replied [] 2 (BitVec.ofNat 32 (rd16 s.inBuf 4)) s
          else replied [s.inBuf] 3 (BitVec.ofNat 32 (rd16 s.inBuf 4)) s
        else replied [s.inBuf] 3 0 s
       else faulted 2 0 s))

/-- 40_record_codec.md R141: the one known entry; `ACK_OK_CODE` is one code, not 0x2710 and not in the table. -/
def Obligations.ReplyTableAndOkCodeAreApart : Prop :=
  replyName 0x2710 = some "Invalid inum size" ∧
  (∃! c : BitVec 16, isAckOk c = true) ∧
  ∀ c : BitVec 16, isAckOk c = true → c ≠ 0x2710 ∧ replyName c = none

/-! ### RLECodec -/

/-- 41_rle_codec.md R151: `expand` of a descriptor word under the default layout, for all 65536 words. -/
def Obligations.ExpansionOfADescriptorWord : Prop :=
  ∀ w : BitVec 16,
    expand (wordDesc Config.defaultLayout w) =
      if w.getLsbD 15 = true then
        List.replicate (w.toNat % 2048) (if w.getLsbD 14 = true then (0xFF : Byte) else 0x00)
      else [BitVec.ofNat 8 (w.toNat % 256)]

/-- 41_rle_codec.md R152, R155: what RLE.DECROW does in IDLE with a stream none of whose descriptors the policy
refuses and whose row the capacity holds, and with a stream of odd length. -/
def Obligations.RleDecRowExpandsInOrder : Prop :=
  ∀ s : State, s.st = .idle →
    (s.inBuf.length % 2 = 1 → exec .rleDecRow s = .next (faulted 5 0 s)) ∧
    (s.inBuf.length % 2 = 0 →
      (∀ d ∈ streamDescs s.cfg.layout s.inBuf, reservedDesc s.cfg d = false) →
      Fits s.cfg ((streamDescs s.cfg.layout s.inBuf).flatMap expand).length →
        exec .rleDecRow s =
          .next (produced [(streamDescs s.cfg.layout s.inBuf).flatMap expand] s))

/-- 60_exceptions.md R289: per descriptor in stream order, ReservedDescriptor before BufferOverflow, the first
descriptor at which either holds. -/
def Obligations.RleDecRowFaultOrder : Prop :=
  ∀ (s : State) (pre post : List Desc) (d : Desc),
    s.st = .idle → s.inBuf.length % 2 = 0 → streamDescs s.cfg.layout s.inBuf = pre ++ d :: post →
    (∀ e ∈ pre, reservedDesc s.cfg e = false) → Fits s.cfg (pre.flatMap expand).length →
      (reservedDesc s.cfg d = true → exec .rleDecRow s = .next (faulted 7 0 s)) ∧
      (reservedDesc s.cfg d = false → ¬Fits s.cfg ((pre ++ [d]).flatMap expand).length →
        exec .rleDecRow s = .next (faulted 8 0 s))

/-- 41_rle_codec.md R160: the compressor by bit runs (R158) is the compressor by solid bytes, for
every `RLE_LEN_MAX`. -/
def Obligations.EncrowByBitsIsEncrowByBytes : Prop :=
  ∀ (m : Nat) (row : List Byte), encDescs m row = bytewiseDescs m row

/-- 41_rle_codec.md R161: a solid run of any length, after bytes the last of which is another and before a byte that is
another, is split greedily at 2047 bytes, R5's `RLE_LEN_MAX`. -/
def Obligations.LongRunsAreSplitAt2047 : Prop :=
  ∀ (pre : List Byte) (v : Byte) (n : Nat) (tail : List Byte),
    solid v = true → pre.getLast? ≠ some v → tail.head? ≠ some v → (n = 0 → pre = []) →
    encDescs 2047 (pre ++ List.replicate n v ++ tail) =
      encDescs 2047 pre ++ List.replicate (n / 2047) (.rle (v.getLsbD 7) 0 2047) ++
        (if n % 2047 = 0 then [] else [.rle (v.getLsbD 7) 0 (BitVec.ofNat 11 (n % 2047))]) ++
        encDescs 2047 tail

/-- 41_rle_codec.md R158, R162: the tests and result of RLE.ENCROW, for every state. -/
def Obligations.RleEncRowChecksAndCompresses : Prop :=
  ∀ s : State,
    exec .rleEncRow s = .next (stateTested s
      (if s.width.toNat = 0 ∨ s.width.toNat % 8 ≠ 0 then faulted 1 2 s
       else if s.inBuf.length ≠ s.width.toNat / 8 then faulted 1 10 s
       else produced [encrow s.cfg s.inBuf] s))

/-- 41_rle_codec.md R163: the round trip, as a law of the descriptors of every row and through the two commands,
under either policy and all parameters that agree with the formats (log 25); the converse does not hold. -/
def Obligations.RleRoundTrip : Prop :=
  (∀ (m : Nat) (row : List Byte), 1 ≤ m → m ≤ 2047 → (encDescs m row).flatMap expand = row) ∧
  (∀ (c : BlockConfig) (row : List Byte), c.layout.valid = true →
    streamDescs c.layout (encrow c row) = encDescs c.rleLenMax row) ∧
  (∀ s : State, s.st = .idle → s.cfg.valid = true → s.width.toNat ≠ 0 →
    s.width.toNat % 8 = 0 → s.inBuf.length = s.width.toNat / 8 →
      ∃ t e, exec .rleEncRow s = .next t ∧ t.st = .ready ∧ t.outq = [e] ∧
        ∀ u : State, u.st = .idle → u.cfg.layout = s.cfg.layout → Fits u.cfg s.inBuf.length →
          u.inBuf = e → exec .rleDecRow u = .next (produced [s.inBuf] u)) ∧
  (∃ ds : List Desc, ∀ m, encDescs m (ds.flatMap expand) ≠ ds)

/-- 41_rle_codec.md R164: the length bound per row, when it is tight, and the total over an image, for
every `RLE_LEN_MAX` of at least 2, as R5's 2047 is. -/
def Obligations.EncrowLengthBound : Prop :=
  ∀ c : BlockConfig, 2 ≤ c.rleLenMax →
    (∀ row : List Byte,
      (encrow c row).length ≤ 2 * row.length ∧ (encrow c row).length % 2 = 0 ∧
      (row ≠ [] → encrow c row ≠ []) ∧
      ((encrow c row).length = 2 * row.length ↔
        ∀ i, i + 1 < row.length → row.getD i 0 = row.getD (i + 1) 0 →
          row.getD i 0 ≠ 0x00 ∧ row.getD i 0 ≠ 0xFF)) ∧
    (∀ (data : List Byte) (bpl : Nat),
      ((encodedRows c data bpl).map List.length).sum ≤ 2 * bpl * (data.length / bpl))

/-- 41_rle_codec.md R165: the tests and result of RLE.ENCIMG, for every state. -/
def Obligations.RleEncImgChecksAndCompresses : Prop :=
  ∀ s : State,
    exec .rleEncImg s = .next (stateTested s
      (if s.width.toNat = 0 ∨ s.width.toNat % 8 ≠ 0 then faulted 1 2 s
       else if s.inBuf.length % (s.width.toNat / 8) ≠ 0 then faulted 1 3 s
       else produced
        ((List.range (s.inBuf.length / (s.width.toNat / 8))).map fun k =>
          encrow s.cfg
            (slice s.inBuf (k * (s.width.toNat / 8)) ((k + 1) * (s.width.toNat / 8)))) s))

/-- 41_rle_codec.md R166: RLE.ENCIMG of a raster is the list of RLE.ENCROW of its rows, and RLE.DECROW of each
datagram gives the rows back, which concatenate to the raster, under all parameters that agree with the formats
(log 25). -/
def Obligations.RleEncImgIsRowByRow : Prop :=
  ∀ s : State, s.st = .idle → s.cfg.valid = true → s.width.toNat ≠ 0 → s.width.toNat % 8 = 0 →
    s.inBuf.length % (s.width.toNat / 8) = 0 →
      ∃ t, exec .rleEncImg s = .next t ∧ t.st = .ready ∧
        t.outq.length = s.inBuf.length / (s.width.toNat / 8) ∧
        (List.range t.outq.length).flatMap (rasterRow s.inBuf (s.width.toNat / 8)) = s.inBuf ∧
        ∀ k, k < t.outq.length →
          (∀ u : State, u.st = .idle → u.width = s.width → u.cfg = s.cfg →
            u.inBuf = rasterRow s.inBuf (s.width.toNat / 8) k →
              exec .rleEncRow u = .next (produced [t.outq.getD k []] u)) ∧
          (∀ u : State, u.st = .idle → u.cfg.layout = s.cfg.layout →
            Fits u.cfg (s.width.toNat / 8) → u.inBuf = t.outq.getD k [] →
              exec .rleDecRow u =
                .next (produced [rasterRow s.inBuf (s.width.toNat / 8) k] u))

/-! ### ImagePacketizer -/

/-- 42_image_packetizer.md R182: the seven tests in order and the packets of IMG.PKT.RAW, for every state and all
parameters. -/
def Obligations.ImgPktRawTestsAndPackets : Prop :=
  ∀ s : State,
    exec .imgPktRaw s = .next (stateTested s
      (if s.cfg.inumMax < s.inum.toNat then faulted 1 1 s
       else if s.width.toNat = 0 ∨ s.width.toNat % 8 ≠ 0 then faulted 1 2 s
       else if s.inBuf.length % (s.width.toNat / 8) ≠ 0 then faulted 1 3 s
       else if s.lpp.toNat = 0 then faulted 1 6 s
       else if s.inBuf.length % (s.lpp.toNat * (s.width.toNat / 8)) ≠ 0 then faulted 1 4 s
       else if s.cfg.rawDgramMax < s.cfg.rawHdrBytes + s.lpp.toNat * (s.width.toNat / 8) then faulted 1 5 s
       else if 65536 < s.inBuf.length / (s.width.toNat / 8) / s.lpp.toNat then faulted 1 9 s
       else produced
        ((List.range (s.inBuf.length / (s.width.toNat / 8) / s.lpp.toNat)).map fun i =>
          be32 Config.imgRawTag.toNat ++ be16 i ++ be16 s.inum.toNat ++ be48 (i * s.lpp.toNat) ++
            slice s.inBuf (i * (s.lpp.toNat * (s.width.toNat / 8)))
              ((i + 1) * (s.lpp.toNat * (s.width.toNat / 8)))) s))

/-- 42_image_packetizer.md R191, R192: the laws of IMG.PKT.RAW when it succeeds: the packet count, every packet's
fields and size, and that the payloads in order are the raster, under all parameters that agree with the formats
(log 25). -/
def Obligations.ImgPktRawLaws : Prop :=
  ∀ s t : State, s.st = .idle → s.cfg.valid = true → exec .imgPktRaw s = .next t → t.st = .ready →
    t.outq.length = s.inBuf.length / (s.width.toNat / 8) / s.lpp.toNat ∧
    t.outq.flatMap (fun d => d.drop 14) = s.inBuf ∧
    ∀ i, i < t.outq.length →
      (t.outq.getD i []).take 4 = be32 Config.imgRawTag.toNat ∧
      rd16 (t.outq.getD i []) 4 = i ∧
      rd16 (t.outq.getD i []) 6 = s.inum.toNat ∧
      beVal (slice (t.outq.getD i []) 8 14) = i * s.lpp.toNat ∧
      (t.outq.getD i []).length = 14 + s.lpp.toNat * (s.width.toNat / 8) ∧
      (t.outq.getD i []).length ≤ s.cfg.rawDgramMax

/-- 42_image_packetizer.md R193, R198, R199: the five tests in order, the last one over every row before any packet,
and the packets of IMG.PKT.RLE, for every state and all parameters. -/
def Obligations.ImgPktRleTestsAndPackets : Prop :=
  ∀ s : State,
    exec .imgPktRle s = .next (stateTested s
      (if s.cfg.inumMax < s.inum.toNat then faulted 1 1 s
       else if s.width.toNat = 0 ∨ s.width.toNat % 8 ≠ 0 then faulted 1 2 s
       else if s.inBuf.length % (s.width.toNat / 8) ≠ 0 then faulted 1 3 s
       else if 65535 < s.inBuf.length / (s.width.toNat / 8) then faulted 1 9 s
       else if ∃ k < s.inBuf.length / (s.width.toNat / 8),
          s.cfg.rlePayloadMax < 8 + (encrow s.cfg (rasterRow s.inBuf (s.width.toNat / 8) k)).length then
        faulted 1 5 s
       else produced
        ((List.range (s.inBuf.length / (s.width.toNat / 8))).map fun k =>
          be16 (12 + (encrow s.cfg (rasterRow s.inBuf (s.width.toNat / 8) k)).length) ++
            be16 Config.imgRleRecid.toNat ++ be16 (k + 1) ++ be16 s.inum.toNat ++ be32 k ++
            encrow s.cfg (rasterRow s.inBuf (s.width.toNat / 8) k)) s))

/-- 42_image_packetizer.md R200, R201: the laws of IMG.PKT.RLE when it succeeds: the packet count, every packet's
fields, that REC.DEC accepts it, and that its descriptors decode to its row, the rows concatenating to the raster,
under all parameters that agree with the formats (log 25). -/
def Obligations.ImgPktRleLaws : Prop :=
  ∀ s t : State, s.st = .idle → s.cfg.valid = true → exec .imgPktRle s = .next t →
    t.st = .ready →
    t.outq.length = s.inBuf.length / (s.width.toNat / 8) ∧
    t.outq.flatMap (fun d => (streamDescs s.cfg.layout (d.drop 12)).flatMap expand) = s.inBuf ∧
    ∀ k, k < t.outq.length →
      rd16 (t.outq.getD k []) 0 = (t.outq.getD k []).length ∧
      rd16 (t.outq.getD k []) 4 = k + 1 ∧
      rd16 (t.outq.getD k []) 6 = s.inum.toNat ∧
      slice (t.outq.getD k []) 8 12 = be32 k ∧
      (t.outq.getD k []).length ≤ 4 + s.cfg.rlePayloadMax ∧
      (streamDescs s.cfg.layout ((t.outq.getD k []).drop 12)).flatMap expand =
        rasterRow s.inBuf (s.width.toNat / 8) k ∧
      ∀ u : State, u.st = .idle → u.inBuf = t.outq.getD k [] →
        ∃ v, exec .recDec u = .next v ∧ v.st = .ready ∧
          v.rrecid.toNat = Config.imgRleRecid.toNat ∧ v.rsize.toNat = (t.outq.getD k []).length ∧
          v.outq = [(t.outq.getD k []).drop 4]

/-! ### SequencePacketizer -/

/-- 43_sequence_packetizer.md R211: the two tests and the chunks of SEQ.PKT, for every state and all parameters. -/
def Obligations.SeqPktTestsAndChunks : Prop :=
  ∀ s : State,
    exec .seqPkt s = .next (stateTested s
      (if s.chunk.toNat = 0 ∨ s.chunk.toNat % 8 ≠ 0 ∨
          s.cfg.seqDgramMax < s.chunk.toNat + s.cfg.seqHdrBytes then faulted 3 0 s
       else if 65535 < (s.inBuf.length + s.chunk.toNat - 1) / s.chunk.toNat then faulted 1 9 s
       else produced
        ((List.range ((s.inBuf.length + s.chunk.toNat - 1) / s.chunk.toNat)).map fun j =>
          be16 (10 + (programSlice s.inBuf s.chunk.toNat j).length) ++ be16 Config.seqTag.toNat ++
            be16 (j + 1) ++ be16 ((s.inBuf.length + s.chunk.toNat - 1) / s.chunk.toNat) ++
            be16 (programSlice s.inBuf s.chunk.toNat j).length ++
            programSlice s.inBuf s.chunk.toNat j) s))

/-- 43_sequence_packetizer.md R212: the legal chunk sizes are 8, 16, ..., 1488, and SEQ.PKT raises InvalidChunkSize
for exactly the others, where the parameters the test reads have R5's values. -/
def Obligations.LegalChunkSizes : Prop :=
  ∀ s t : State, s.st = .idle → s.cfg.seqDgramMax = 1500 → s.cfg.seqHdrBytes = 10 →
    exec .seqPkt s = .next t →
    ((t.st = .fault ∧ t.faultCode = 3) ↔ ¬∃ m, 1 ≤ m ∧ m ≤ 186 ∧ s.chunk.toNat = 8 * m)

/-- 43_sequence_packetizer.md R216, R219: the laws of SEQ.PKT when it succeeds: every chunk's fields and size, that
REC.DEC accepts it, and that the data in order are the program, under all parameters that agree with the formats
(log 25). -/
def Obligations.SeqPktLaws : Prop :=
  ∀ s t : State, s.st = .idle → s.cfg.valid = true → exec .seqPkt s = .next t → t.st = .ready →
    t.outq.flatMap (fun d => d.drop 10) = s.inBuf ∧
    ∀ j, j < t.outq.length →
      rd16 (t.outq.getD j []) 0 = (t.outq.getD j []).length ∧
      rd16 (t.outq.getD j []) 2 = Config.seqTag.toNat ∧
      rd16 (t.outq.getD j []) 4 = j + 1 ∧
      rd16 (t.outq.getD j []) 6 = t.outq.length ∧
      rd16 (t.outq.getD j []) 8 = (t.outq.getD j []).length - 10 ∧
      11 ≤ (t.outq.getD j []).length ∧ (t.outq.getD j []).length ≤ s.cfg.seqDgramMax ∧
      (s.cfg.seqDgramMax = 1500 → (t.outq.getD j []).length ≤ 1498) ∧
      ∀ u : State, u.st = .idle → u.inBuf = t.outq.getD j [] →
        ∃ v, exec .recDec u = .next v ∧ v.st = .ready ∧
          v.rrecid.toNat = Config.seqTag.toNat ∧ v.rsize.toNat = (t.outq.getD j []).length

/-! ### Control commands and host actions -/

/-- 44_control_ops.md R232, R235: NOP and CLR in every state, with their whole effect. -/
def Obligations.NopAndClrInEveryState : Prop :=
  ∀ s : State,
    exec .nop s = .next s ∧
    exec .clr s = .next { s with st := .idle, faultCode := 0, faultParam := 0, outq := [], outidx := 0 }

/-- 44_control_ops.md R233, R234: NEXT in every state, with its whole effect; that what is handed over is kept in the
list `handed` is the model's choice (log 11). -/
def Obligations.NextHandsOverOneDatagram : Prop :=
  ∀ s : State,
    (s.st = .fault → exec .next s = .next s) ∧
    (s.st = .idle → exec .next s = .next (faulted 6 0 s)) ∧
    (s.st = .ready → s.outq.length ≤ s.outidx → exec .next s = .next (faulted 6 0 s)) ∧
    (s.st = .ready → ∀ h : s.outidx < s.outq.length,
      exec .next s =
        .next { s with handed := s.handed ++ [s.outq[s.outidx]], outidx := s.outidx + 1 })

/-- 44_control_ops.md R231, R241: an operation command in READY raises ProtocolViolation and the held datagrams are
discarded; in FAULT nothing changes. -/
def Obligations.OperationsOutsideIdle : Prop :=
  ∀ (i : Instr) (s : State), isOperation i = true →
    (s.st = .ready → exec i s = .next (faulted 6 0 s)) ∧ (s.st = .fault → exec i s = .next s)

/-- 44_control_ops.md R236: SEEK. -/
def Obligations.SeekMovesTheCursor : Prop :=
  ∀ (s : State) (n : Word) (rest : List HostAction), s.pending = .write 0x10 n :: rest →
    step s = .next
      (match s.st with
       | .fault => { s with pending := rest }
       | .idle => faulted 6 0 { s with pending := rest }
       | .ready =>
         if n.toNat ≤ s.outq.length then { s with pending := rest, outidx := n.toNat }
         else faulted 6 0 { s with pending := rest })

/-- 44_control_ops.md R237, 60_exceptions.md R285: LOAD. -/
def Obligations.LoadReplacesTheInput : Prop :=
  ∀ (s : State) (b : List Byte) (rest : List HostAction), s.pending = .load b :: rest →
    (s.st = .fault → step s = .next { s with pending := rest }) ∧
    (s.st = .ready → step s = .next (faulted 6 0 { s with pending := rest })) ∧
    (s.st = .idle → ¬Fits s.cfg b.length → step s = .next (faulted 8 0 { s with pending := rest })) ∧
    (s.st = .idle → Fits s.cfg b.length → step s = .next { s with pending := rest, inBuf := b })

/-- 44_control_ops.md R238: SET of each parameter register, which takes the value written where `PARAM_BITS` bits hold it
(at R5's 32 bits, every value), and the writes that are ignored in every state. What a narrower register makes of a
wider value is not stated: the free value of log 25. -/
def Obligations.SetWritesOneParameter : Prop :=
  ∀ (s : State) (offset : Nat) (v : Word) (rest : List HostAction),
    s.pending = .write offset v :: rest →
    (offset ∈ [0x20, 0x24, 0x28, 0x2C, 0x30] → s.st = .fault → step s = .next { s with pending := rest }) ∧
    (offset ∈ [0x20, 0x24, 0x28, 0x2C, 0x30] → s.st = .ready →
      step s = .next (faulted 6 0 { s with pending := rest })) ∧
    (s.st = .idle → ∃ w : Word, (v.toNat < 2 ^ s.cfg.paramBits → w = v) ∧
      (offset = 0x20 → step s = .next { s with pending := rest, recid := w }) ∧
      (offset = 0x24 → step s = .next { s with pending := rest, inum := w }) ∧
      (offset = 0x28 → step s = .next { s with pending := rest, width := w }) ∧
      (offset = 0x2C → step s = .next { s with pending := rest, lpp := w }) ∧
      (offset = 0x30 → step s = .next { s with pending := rest, chunk := w })) ∧
    (offset % 4 = 0 → offset ∉ [0x00, 0x10, 0x20, 0x24, 0x28, 0x2C, 0x30] →
      step s = .next { s with pending := rest })

/-- 44_control_ops.md R239, 20_memory.md R68, 10_state.md R30, R31: READ of every register, in every state, where the
counts fit 32 bits, and that it changes nothing; the list `reads` of what the host read is the model's (log 11). -/
def Obligations.ReadShowsTheRegister : Prop :=
  ∀ (s : State) (offset : Nat) (rest : List HostAction),
    s.pending = .read offset :: rest → offset % 4 = 0 → s.outq.length < 2 ^ 32 → s.outidx < 2 ^ 32 →
    s.inBuf.length < 2 ^ 32 → (s.outq.getD s.outidx []).length < 2 ^ 32 →
    step s = .next
      { s with
        pending := rest
        reads := s.reads ++
          [if offset = 0x04 then
              BitVec.ofNat 32
                ((match s.st with | .idle => 0 | .ready => 1 | .fault => 2) +
                  (if s.st = .ready ∧ s.outidx < s.outq.length then 4 else 0))
            else if offset = 0x08 then BitVec.ofNat 32 (s.faultCode.toNat + 256 * s.faultParam.toNat)
            else if offset = 0x0C then BitVec.ofNat 32 s.outq.length
            else if offset = 0x10 then BitVec.ofNat 32 s.outidx
            else if offset = 0x14 then
              BitVec.ofNat 32 (if s.st = .ready ∧ s.outidx < s.outq.length then
                (s.outq.getD s.outidx []).length else 0)
            else if offset = 0x20 then s.recid
            else if offset = 0x24 then s.inum
            else if offset = 0x28 then s.width
            else if offset = 0x2C then s.lpp
            else if offset = 0x30 then s.chunk
            else if offset = 0x34 then BitVec.ofNat 32 s.inBuf.length
            else if offset = 0x40 then s.rsize
            else if offset = 0x44 then s.rrecid
            else if offset = 0x48 then s.rclass
            else if offset = 0x4C then s.rcode
            else 0] }

/-- 70_reset_and_hazards.md R320, 10_state.md R45: RESET from any state; `CHUNK` takes `DEFAULT_CHUNK`, 1440 by R5. -/
def Obligations.ResetFromAnyState : Prop :=
  ∀ (s : State) (rest : List HostAction), s.pending = .reset :: rest →
    ∃ t, step s = .next t ∧ t.st = .idle ∧ statusWord t = 0 ∧ t.faultCode = 0 ∧ t.faultParam = 0 ∧
      t.outq = [] ∧ t.outidx = 0 ∧ outlen t = 0 ∧ t.rsize = 0 ∧ t.rrecid = 0 ∧ t.rclass = 0 ∧
      t.rcode = 0 ∧ t.inBuf = [] ∧ t.recid = 0 ∧ t.inum = 0 ∧ t.width = 0 ∧ t.lpp = 0 ∧
      t.chunk = s.cfg.defaultChunk ∧ (s.cfg = Config.default → t.chunk = 1440) ∧ t.cfg = s.cfg ∧ t.pending = rest

/-- 44_control_ops.md R233, R234, R242: the loop `while MORE: NEXT` hands over, in order and unchanged, every datagram
from the cursor on, and stops with the cursor at the end. -/
def Obligations.PullLoopHandsOverTheRest : Prop :=
  ∀ (s : State) (rest : List HostAction), s.st = .ready → s.outidx ≤ s.outq.length →
    s.pending = List.replicate (s.outq.length - s.outidx) (.write 0x00 0x0A) ++ rest →
      core.run (s.outq.length - s.outidx) s =
        .next { s with
          pending := rest, outidx := s.outq.length, handed := s.handed ++ s.outq.drop s.outidx }

/-- 44_control_ops.md R236, 46_host_transfer_session.md R266: after `SEEK n` the loop hands over the datagrams from
`n` on again, byte for byte. -/
def Obligations.SeekRestartsTheStream : Prop :=
  ∀ (s : State) (n : Word) (rest : List HostAction), s.st = .ready → n.toNat ≤ s.outq.length →
    s.pending =
      .write 0x10 n :: (List.replicate (s.outq.length - n.toNat) (.write 0x00 0x0A) ++ rest) →
      core.run (s.outq.length - n.toNat + 1) s =
        .next { s with
          pending := rest, outidx := s.outq.length, handed := s.handed ++ s.outq.drop n.toNat }

/-! ### Whole-machine rules -/

/-- 60_exceptions.md R291: nothing stops the machine: every step of every state answers a next state, so every run of
any length goes on. -/
def Obligations.NothingStopsTheMachine : Prop :=
  ∀ s : State, (∃ t, step s = .next t) ∧ Safe s

/-- 60_exceptions.md R286, R290: a single host action that enters FAULT writes nothing but the fault entry. -/
def Obligations.FaultEntryWritesNothingElse : Prop :=
  ∀ (s t : State) (a : HostAction) (rest : List HostAction),
    s.pending = a :: rest → isSingle a = true → s.st ≠ .fault → step s = .next t → t.st = .fault →
      ∃ c p, c ≠ 0 ∧ (p ≠ 0 ↔ c = 1) ∧ t = faulted c p { s with pending := rest }

/-- 60_exceptions.md R288, R291: in FAULT every action but CLR, READ and RESET (and a session event, which may issue
CLR) is refused without effect, so the first cause stays. -/
def Obligations.FaultIsStickyUntilClearOrReset : Prop :=
  ∀ (s : State) (a : HostAction) (rest : List HostAction),
    s.st = .fault → s.pending = a :: rest → a ≠ .reset → (∀ n, a ≠ .read n) → (∀ e, a ≠ .session e) →
    a ≠ .write 0x00 0x0B → step s = .next { s with pending := rest }

/-- 10_state.md R22, R46, 46_host_transfer_session.md R251: every step keeps the invariants. -/
def Obligations.EveryStepKeepsTheInvariants : Prop :=
  ∀ s t : State, MachineInv s → step s = .next t → MachineInv t

/-- 10_state.md R45, R46: the invariants hold right after reset. -/
def Obligations.InvariantsHoldAtReset : Prop :=
  MachineInv State.reset

/-- 00_scope.md R5, 10_state.md R21, 70_reset_and_hazards.md R320: no step changes a parameter of the run (to hold
them in State is the model's choice, log 5). -/
def Obligations.NoStepChangesTheParameters : Prop :=
  ∀ s t : State, step s = .next t → t.cfg = s.cfg

/-- 10_state.md R23, R35 to R38, 20_memory.md R76: the frame of the twelve commands: no command writes a parameter
register or `IN`, only REC.DEC and REC.CLS write result registers, only NEXT hands anything over. -/
def Obligations.CommandFrames : Prop :=
  ∀ (i : Instr) (s t : State), isCommand i = true → exec i s = .next t →
    SameInputs s t ∧ SameHost s t ∧
    (i ≠ .recDec → i ≠ .recCls → SameReply s t) ∧ (t.st = .fault → SameReply s t) ∧
    (i ≠ .next → t.handed = s.handed)

/-- 20_memory.md R67, 70_reset_and_hazards.md R324: an operation command issued in IDLE is a function of its row of R324:
two states that agree on it give the same outcome, the same queue, the same fault and the same result registers
where the command writes them. -/
def Obligations.OperationsReadOnlyTheirOperands : Prop :=
  ∀ (i : Instr) (s u : State), isOperation i = true → s.st = .idle → u.st = .idle → AgreeOn i s u →
    ∃ t v, exec i s = .next t ∧ exec i u = .next v ∧ t.st = v.st ∧ t.outq = v.outq ∧
      t.outidx = v.outidx ∧ (t.st = .fault → t.faultCode = v.faultCode ∧ t.faultParam = v.faultParam) ∧
      (t.st = .ready → i = .recDec ∨ i = .recCls →
        t.rsize = v.rsize ∧ t.rrecid = v.rrecid ∧ t.rclass = v.rclass ∧ t.rcode = v.rcode)

/-! ### Wire-format units (the model's choice of what presenting one does: log 2, log 3) -/

/-- Presenting a unit of a format that a command reads is LOAD of its bytes and then that command, as two host
actions (30_encoding.md R109; the model's choice, log 2). -/
def Obligations.PresentingIsLoadThenCommand : Prop :=
  ∀ (s t : State) (i : Instr) (f : WireFormat) (b : List Byte) (w : Word),
    encode s.cfg i = .wire f b →
    w = (match f with
      | .frameRecord => 0x02
      | .frameAck => 0x03
      | .desc16 => 0x05
      | .pktImgRaw => 0x00
      | .pktImgRle => 0x02
      | .chunkSeq => 0x02) →
    exec i s = .next t →
      core.run 2 { s with pending := .load b :: .write 0x00 w :: s.pending } = .next t

/-- FRAME.RECORD presented in IDLE is decoded: header fields in the result registers, payload in the queue
(30_encoding.md R94, 40_record_codec.md R134; presenting is the model's choice, log 2). -/
def Obligations.FrameRecordPresented : Prop :=
  ∀ (s : State) (id : BitVec 16) (p : List Byte),
    s.st = .idle → p.length ≤ 65531 → Fits s.cfg (4 + p.length) →
      exec (.frameRecord id p) s = .next
        { s with
          inBuf := be16 (4 + p.length) ++ be16 id.toNat ++ p, st := .ready, outq := [p], outidx := 0
          rsize := BitVec.ofNat 32 (4 + p.length), rrecid := BitVec.ofNat 32 id.toNat
          rclass := 0, rcode := 0 }

/-- FRAME.ACK presented in IDLE, with the machine's `ACK_RECID`, is classified by its code, and nothing else changes
(30_encoding.md R96, 40_record_codec.md R137; presenting is the model's choice, log 2). -/
def Obligations.FrameAckPresented : Prop :=
  ∀ (s : State) (c : BitVec 16), s.st = .idle → Fits s.cfg 6 →
    exec (.frameAck c) s = .next
      { s with
        inBuf := be16 6 ++ be16 s.cfg.ackRecid.toNat ++ be16 c.toNat, st := .ready, outidx := 0
        outq :=
          if isAckOk c || (replyName c).isSome then []
          else [be16 6 ++ be16 s.cfg.ackRecid.toNat ++ be16 c.toNat]
        rsize := 6, rrecid := BitVec.ofNat 32 s.cfg.ackRecid.toNat, rcode := BitVec.ofNat 32 c.toNat
        rclass := if isAckOk c then 1 else if (replyName c).isSome then 2 else 3 } ∧
    (c = 0x2710 → ∃ t, exec (.frameAck c) s = .next t ∧ t.rclass = 2)

/-- A descriptor presented in IDLE is expanded, under every valid layout: a solid fill of `runLengthBytes` bytes for
RLE, whatever `transitionPos` is unless the policy refuses it, and the literal byte for Raw, whatever the reserved
bits are (41_rle_codec.md R151, R153, R154; presenting is the model's choice, log 2). -/
def Obligations.DescriptorsPresented : Prop :=
  ∀ s : State, s.st = .idle → s.cfg.layout.valid = true → Fits s.cfg 2 →
    (∀ (b : Bool) (p : BitVec 3) (n : BitVec 11), s.cfg.tpPolicy = .ignore ∨ p = 0 →
      Fits s.cfg n.toNat →
        exec (.descRle b p n) s = .next
          { s with
            inBuf := descBytes s.cfg.layout (.rle b p n), st := .ready, outidx := 0
            outq := [List.replicate n.toNat (if b then 0xFF else 0x00)] }) ∧
    (∀ (b : Bool) (p : BitVec 3) (n : BitVec 11), s.cfg.tpPolicy = .refuse → p ≠ 0 →
      exec (.descRle b p n) s = .next
        (faulted 7 0 { s with inBuf := descBytes s.cfg.layout (.rle b p n) })) ∧
    (∀ (r : BitVec 7) (v : Byte),
      exec (.descRaw r v) s = .next
        { s with
          inBuf := descBytes s.cfg.layout (.raw r v), st := .ready, outidx := 0, outq := [[v]] })

/-- Image packets and chunks presented in IDLE: PKT.IMGRLE and CHUNK.SEQ are decoded as Record frames, PKT.IMGRAW is
loaded and read by no command (42_image_packetizer.md R183, R200, 43_sequence_packetizer.md R216; presenting is the
model's choice, log 2 and log 3). -/
def Obligations.PacketsPresented : Prop :=
  ∀ s : State, s.st = .idle →
    (∀ (q n : BitVec 16) (o : BitVec 48) (p : List Byte), Fits s.cfg (14 + p.length) →
      exec (.pktImgRaw q n o p) s = .next
        { s with
          inBuf := be32 Config.imgRawTag.toNat ++ be16 q.toNat ++ be16 n.toNat ++ be48 o.toNat ++ p }) ∧
    (∀ (q n : BitVec 16) (o : BitVec 32) (e : List Byte), 12 + e.length ≤ 65535 →
      Fits s.cfg (12 + e.length) →
        exec (.pktImgRle q n o e) s = .next
          { s with
            inBuf := be16 (12 + e.length) ++ be16 Config.imgRleRecid.toNat ++
              (be16 q.toNat ++ be16 n.toNat ++ be32 o.toNat ++ e)
            st := .ready, outq := [be16 q.toNat ++ be16 n.toNat ++ be32 o.toNat ++ e], outidx := 0
            rsize := BitVec.ofNat 32 (12 + e.length)
            rrecid := BitVec.ofNat 32 Config.imgRleRecid.toNat, rclass := 0, rcode := 0 }) ∧
    (∀ (j m : BitVec 16) (d : List Byte), 10 + d.length ≤ 65535 → Fits s.cfg (10 + d.length) →
      exec (.chunkSeq j m d) s = .next
        { s with
          inBuf := be16 (10 + d.length) ++ be16 Config.seqTag.toNat ++ be16 j.toNat ++ be16 m.toNat ++
            be16 d.length ++ d
          st := .ready, outq := [be16 j.toNat ++ be16 m.toNat ++ be16 d.length ++ d], outidx := 0
          rsize := BitVec.ofNat 32 (10 + d.length), rrecid := BitVec.ofNat 32 Config.seqTag.toNat
          rclass := 0, rcode := 0 })

/-! ### The transfer session (the block's environment, log 14)

A record's id stands as `RECID` holds it, `fitParam`: every id at R5's `PARAM_BITS`, else the free value of log 25. -/

/-- 46_host_transfer_session.md R250, R252: a session in `Complete` or `Failed`, and no session, which is what such an end
leaves, is changed by no event but the construction of a new session, and neither is the block. -/
def Obligations.TerminalPhasesStay : Prop :=
  ∀ (s : State) (e : SessionEvent) (rest : List HostAction),
    (s.session = none ∨
      ∃ ss, s.session = some ss ∧ (ss.phase = .complete ∨ ss.phase = .failed)) →
    (∀ plan, e ≠ .create plan) →
    s.pending = .session e :: rest → step s = .next { s with pending := rest }

/-- 46_host_transfer_session.md R250, R261: a socket error in any phase that is not terminal, and a timeout of a request
in flight, end the session in `Failed`: the host issues CLR to the block, the session is destroyed, and its report holds
the phase it was in (that this is "last successful state" is log 21's reading). -/
def Obligations.TransportFailuresEndTheSession : Prop :=
  ∀ (s : State) (ss : Session) (rest : List HostAction),
    s.session = some ss → ss.phase ≠ .complete → ss.phase ≠ .failed →
    (s.pending = .session .socketError :: rest →
      step s = .next
        { s with
          pending := rest, st := .idle, faultCode := 0, faultParam := 0, outq := [], outidx := 0
          session := none
          reports := s.reports ++
            [{ last := ss.phase
               session :=
                { ss with phase := .failed, failure := some .transportError, inFlight := false } }] }) ∧
    (ss.inFlight = true → s.pending = .session .timeout :: rest →
      step s = .next
        { s with
          pending := rest, st := .idle, faultCode := 0, faultParam := 0, outq := [], outidx := 0
          session := none
          reports := s.reports ++
            [{ last := ss.phase
               session :=
                { ss with phase := .failed, failure := some .timeout, inFlight := false } }] })

/-- 46_host_transfer_session.md R254, R261: in `Priming` a reply that is not an acknowledgement with the OK code ends the
session with `PrimingFailed` and the reply; after one that is, the next setup record is made by REC.ENC and sent. A reply
the buffer cannot take, or a record REC.ENC refuses, is a block fault inside the session: `TransportError`. -/
def Obligations.PrimingGoesOnOnlyAfterOk : Prop :=
  ∀ (s : State) (ss : Session) (b : Datagram) (rest : List HostAction),
    s.session = some ss → ss.phase = .priming → ss.inFlight = true → s.st = .idle →
    s.pending = .session (.reply b) :: rest →
      (∀ (r next : CommandRecord) (more : List CommandRecord), ss.left = r :: next :: more →
        Fits s.cfg b.length → OkReply s.cfg b →
          (Encodable s.cfg next → ∃ t, step s = .next t ∧ t.st = .idle ∧ t.outq = [] ∧
            t.recid = fitParam s.cfg next.recordId ∧ t.handed = s.handed ++ [frameOf s.cfg next] ∧
            t.reports = s.reports ∧
            t.session = some
              { ss with
                left := next :: more, inFlight := true, cmdTx := ss.cmdTx ++ [frameOf s.cfg next] }) ∧
          (¬Encodable s.cfg next → ∃ t, step s = .next t ∧
            SessionEnds s t .priming
              { ss with phase := .failed, failure := some .transportError, inFlight := false })) ∧
      (Fits s.cfg b.length → ¬OkReply s.cfg b → ∃ t, step s = .next t ∧
        SessionEnds s t .priming
          { ss with phase := .failed, failure := some (.primingFailed b), inFlight := false }) ∧
      (¬Fits s.cfg b.length → ∃ t, step s = .next t ∧
        SessionEnds s t .priming
          { ss with phase := .failed, failure := some .transportError, inFlight := false })

/-- 46_host_transfer_session.md R255 to R257, R260: a burst sends, in order and unchanged, every datagram from the cursor
on, one a turn, and then the kept gap request; the first burst also sets `sent <- OUTCNT`. That chunks are asked for as
image packets are is the model's choice (log 23). -/
def Obligations.BurstSendsTheQueue : Prop :=
  ∀ (s : State) (ss : Session) (rest : List HostAction),
    s.session = some ss → ss.phase = .transferring ∨ ss.phase = .repairing → s.st = .ready →
    s.outidx ≤ s.outq.length →
    s.pending = List.replicate (s.outq.length - s.outidx + 1) (.session .advance) ++ rest →
      core.run (s.outq.length - s.outidx + 1) s =
        .next { s with
          pending := rest, outidx := s.outq.length, handed := s.handed ++ s.outq.drop s.outidx
          session := some
            { ss with
              phase := .verifying, inFlight := true
              sent := if ss.phase = .transferring then s.outq.length else ss.sent
              dataTx := ss.dataTx ++ s.outq.drop s.outidx
              cmdTx := ss.cmdTx ++ [ss.gapFrame] } }

/-- 46_host_transfer_session.md R258 to R261: the gap test on `G`: all held gives CLR and the final record, made by
REC.ENC and sent, the phase still `Verifying` until its reply (log 15, DEDUCED); fewer below the run's `RETRY_CAP`
begins a repair burst at `G`, at that cap fails with `TransferIncomplete`; more fails with `TransportError`. That
chunks are tested as image packets are is the model's choice (log 23). The phase a report names, `Verifying` at the
retry cap too, where R259 names `Repairing` first, and the report's form are log 21's (DEDUCED), stated by no rule. A
gap reply that is not well framed is outside this statement. -/
def Obligations.GapTestRepairsFromG : Prop :=
  ∀ (s : State) (ss : Session) (b : Datagram) (rest : List HostAction) (g : Nat),
    s.session = some ss → ss.phase = .verifying → ss.inFlight = true → ss.finalSent = false →
    s.st = .ready → ss.sent = s.outq.length → ss.sent < 2 ^ 32 →
    4 ≤ b.length → rd16 b 0 = b.length → s.pending = .session (.reply b) :: rest →
    g = (match parseGap ss.plan (b.drop 4) with
      | .noGap => ss.sent
      | .lastGood n => n + 1 - (if ss.plan.kind = .imgRaw then 0 else 1)) →
      ∃ t, step s = .next t ∧
        (g = ss.sent → Encodable s.cfg ss.plan.finalRecord →
          t.st = .idle ∧ t.outq = [] ∧ t.recid = fitParam s.cfg ss.plan.finalRecord.recordId ∧
          t.handed = s.handed ++ [frameOf s.cfg ss.plan.finalRecord] ∧ t.reports = s.reports ∧
          t.session = some
            { ss with
              finalSent := true, inFlight := true
              cmdTx := ss.cmdTx ++ [frameOf s.cfg ss.plan.finalRecord] }) ∧
        (g = ss.sent → ¬Encodable s.cfg ss.plan.finalRecord →
          SessionEnds s t .verifying
            { ss with phase := .failed, failure := some .transportError, inFlight := false }) ∧
        (g < ss.sent → ss.retries ≠ retryCap s.cfg →
          t.st = .ready ∧ t.outq = s.outq ∧ t.outidx = g ∧ t.handed = s.handed ∧ t.reports = s.reports ∧
          t.session = some
            { ss with phase := .repairing, retries := ss.retries + 1, inFlight := false }) ∧
        (g < ss.sent → ss.retries = retryCap s.cfg →
          SessionEnds s t .verifying
            { ss with phase := .failed, failure := some .transferIncomplete, inFlight := false }) ∧
        (ss.sent < g →
          SessionEnds s t .verifying
            { ss with phase := .failed, failure := some .transportError, inFlight := false })

/-- 46_host_transfer_session.md R251 to R253, R260: a session is constructed in `Idle` where there is none; it starts with
the packetizer command as a check, and, where that succeeds, CLR and the first setup record, made by REC.ENC; a command
that faults starts nothing. That `sent` is 0 before the first burst is the model's choice (log 22). -/
def Obligations.SessionStartsWithTheCheck : Prop :=
  ∀ (s : State) (rest : List HostAction),
    (∀ plan : SessionPlan, s.session = none → s.pending = .session (.create plan) :: rest →
      step s = .next
        { s with
          pending := rest
          session := some
            { plan := plan, transport := { toEndpoints := plan.endpoints, timeout := s.cfg.cmdTimeout }
              phase := .idle, left := [], sent := 0, retries := 0, failure := none
              inFlight := false, finalSent := false, gapFrame := [], cmdTx := [], dataTx := [] } }) ∧
    (∀ (ss : Session) (u : State),
      s.session = some ss → ss.phase = .idle → s.st = .idle → s.pending = .session .start :: rest →
      Fits s.cfg ss.plan.data.length →
      exec (packetizerOf ss.plan.kind) { s with pending := rest, inBuf := ss.plan.data } = .next u →
        (u.st = .fault → step s = .next u) ∧
        (u.st = .ready → Encodable s.cfg ss.plan.priming.selectMode →
          step s = .next
            { s with
              pending := rest, st := .idle, faultCode := 0, faultParam := 0, outq := [], outidx := 0
              recid := fitParam s.cfg ss.plan.priming.selectMode.recordId
              inBuf := ss.plan.priming.selectMode.payload
              handed := s.handed ++ [frameOf s.cfg ss.plan.priming.selectMode]
              session := some
                { ss with
                  phase := .priming, inFlight := true
                  left := [ss.plan.priming.selectMode, ss.plan.priming.setSlotSize,
                    ss.plan.priming.resetSequenceCounter, ss.plan.priming.haltSequencer,
                    ss.plan.priming.resetSequencer]
                  cmdTx := ss.cmdTx ++ [frameOf s.cfg ss.plan.priming.selectMode] } }))

/-- 46_host_transfer_session.md R254, R255, R260: the OK after the last setup record: the gap request's frame is made by
REC.ENC and kept, the packetizer command is issued again, and the session is in `Transferring` with the block READY at
the first datagram; a packetizer command that faults fails the session. Its data are loaded again (log 14). The phase the
report of that failure names, `Priming`, where R254 has `Transferring` after the fifth OK, and the report's form are
log 21's (DEDUCED), stated by no rule. A gap request that REC.ENC refuses is outside this statement. -/
def Obligations.LastOkBeginsTheBurst : Prop :=
  ∀ (s : State) (ss : Session) (b : Datagram) (r : CommandRecord) (rest : List HostAction) (u : State),
    s.session = some ss → ss.phase = .priming → ss.inFlight = true → ss.left = [r] → s.st = .idle →
    s.pending = .session (.reply b) :: rest → Fits s.cfg b.length → OkReply s.cfg b →
    Encodable s.cfg ss.plan.gapRequest → Fits s.cfg ss.plan.data.length →
    exec (packetizerOf ss.plan.kind) { s with inBuf := ss.plan.data } = .next u →
      (u.st = .ready → step s = .next
        { s with
          pending := rest, st := .ready, faultCode := 0, faultParam := 0, outq := u.outq, outidx := 0
          recid := fitParam s.cfg ss.plan.gapRequest.recordId, inBuf := ss.plan.data
          rsize := 6, rrecid := BitVec.ofNat 32 s.cfg.ackRecid.toNat, rclass := 1, rcode := BitVec.ofNat 32 (rd16 b 4)
          handed := s.handed ++ [frameOf s.cfg ss.plan.gapRequest]
          session := some
            { ss with
              phase := .transferring, left := [], inFlight := false
              gapFrame := frameOf s.cfg ss.plan.gapRequest } }) ∧
      (u.st = .fault → ∃ t, step s = .next t ∧
        SessionEnds s t .priming
          { ss with
            phase := .failed, failure := some .transportError, inFlight := false
            gapFrame := frameOf s.cfg ss.plan.gapRequest })

/-- 46_host_transfer_session.md R250, R260, R261: the reply to the final record ends the session in `Complete` whatever
its class is, and destroys it; one that is not well framed is a block fault, `TransportError`. That `Complete` waits for
this reply is log 15's (DEDUCED); the phase the report names, `Verifying`, and the report's form are log 21's (DEDUCED),
stated by no rule. -/
def Obligations.FinalReplyCompletesTheSession : Prop :=
  ∀ (s : State) (ss : Session) (b : Datagram) (rest : List HostAction),
    s.session = some ss → ss.phase = .verifying → ss.inFlight = true → ss.finalSent = true →
    s.st = .idle → s.pending = .session (.reply b) :: rest →
      (Fits s.cfg b.length → 4 ≤ b.length → rd16 b 0 = b.length → ∃ t, step s = .next t ∧
        SessionEnds s t .verifying { ss with phase := .complete, inFlight := false }) ∧
      (¬(Fits s.cfg b.length ∧ 4 ≤ b.length ∧ rd16 b 0 = b.length) → ∃ t, step s = .next t ∧
        SessionEnds s t .verifying
          { ss with phase := .failed, failure := some .transportError, inFlight := false })

/-- 46_host_transfer_session.md R263: an abort in any phase that is not terminal is CLR to the block and the end of the
session, and the next session can be constructed at once. That an abort may come outside a burst, and that the report
shows the phase the session was in, is the model's choice (log 24). -/
def Obligations.AbortLeavesRoomForTheNextSession : Prop :=
  ∀ (s : State) (ss : Session) (plan : SessionPlan) (rest : List HostAction),
    s.session = some ss → ss.phase ≠ .complete → ss.phase ≠ .failed →
    s.pending = .session .abort :: .session (.create plan) :: rest →
      ∃ t, step s = .next t ∧
        t =
          { s with
            pending := .session (.create plan) :: rest
            st := .idle, faultCode := 0, faultParam := 0, outq := [], outidx := 0, session := none
            reports := s.reports ++ [{ last := ss.phase, session := { ss with inFlight := false } }] } ∧
        step t = .next { t with pending := rest, session := some (newSession s.cfg plan) }
end

