-- ==== Sys2Proof/Laws/Bytes.lean ====
section
/-! SUPPORT. Lemmas about byte order, fields and frames (00_scope.md R7, R8; 30_encoding.md). -/

namespace Sys2Proof

@[simp] theorem length_beBytes (n v : Nat) : (beBytes n v).length = n := by
  induction n with
  | zero => rfl
  | succ n ih => simp [beBytes, ih]

@[simp] theorem length_be16 (v : Nat) : (be16 v).length = 2 := length_beBytes 2 v

@[simp] theorem length_be32 (v : Nat) : (be32 v).length = 4 := length_beBytes 4 v

@[simp] theorem length_be48 (v : Nat) : (be48 v).length = 6 := length_beBytes 6 v

theorem be16_eq (v : Nat) : be16 v = [BitVec.ofNat 8 (v / 256), BitVec.ofNat 8 v] := by
  simp [be16, beBytes]

theorem be32_eq (v : Nat) :
    be32 v = [BitVec.ofNat 8 (v / 256 ^ 3), BitVec.ofNat 8 (v / 256 ^ 2), BitVec.ofNat 8 (v / 256),
      BitVec.ofNat 8 v] := by
  simp [be32, beBytes]

theorem be48_eq (v : Nat) :
    be48 v = [BitVec.ofNat 8 (v / 256 ^ 5), BitVec.ofNat 8 (v / 256 ^ 4), BitVec.ofNat 8 (v / 256 ^ 3),
      BitVec.ofNat 8 (v / 256 ^ 2), BitVec.ofNat 8 (v / 256), BitVec.ofNat 8 v] := by
  simp [be48, beBytes]

/-- The value of a byte sequence, taken apart at its first byte. -/
theorem beVal_foldl (b : List Byte) (acc : Nat) :
    b.foldl (fun a x => a * 256 + x.toNat) acc = acc * 256 ^ b.length + beVal b := by
  induction b generalizing acc with
  | nil => simp [beVal]
  | cons x b ih =>
    have h1 := ih (acc * 256 + x.toNat)
    have h2 := ih (0 * 256 + x.toNat)
    simp only [beVal, List.foldl_cons, List.length_cons, pow_succ] at *
    rw [h1, h2]
    ring

theorem beVal_cons (x : Byte) (b : List Byte) : beVal (x :: b) = x.toNat * 256 ^ b.length + beVal b := by
  have h := beVal_foldl b (0 * 256 + x.toNat)
  simpa [beVal] using h

theorem beVal_lt (b : List Byte) : beVal b < 256 ^ b.length := by
  induction b with
  | nil => simp [beVal]
  | cons x b ih =>
    rw [beVal_cons, List.length_cons, pow_succ]
    have := x.isLt
    nlinarith [Nat.one_le_pow b.length 256 (by omega)]

/-- A field's bytes spell the field's value. -/
theorem beVal_beBytes (n v : Nat) : beVal (beBytes n v) = v % 256 ^ n := by
  induction n with
  | zero => simp [beBytes, beVal, Nat.mod_one]
  | succ n ih =>
    rw [beBytes, beVal_cons, ih, length_beBytes, BitVec.toNat_ofNat, pow_succ 256 n,
      Nat.mod_mul (a := 256 ^ n) (b := 256), Nat.add_comm, Nat.mul_comm]

/-- The bytes of a value spelled by bytes are those bytes. -/
theorem beBytes_beVal (b : List Byte) : beBytes b.length (beVal b) = b := by
  have key : ∀ (b : List Byte) (k : Nat), beBytes b.length (k * 256 ^ b.length + beVal b) = b := by
    intro b
    induction b with
    | nil => intro k; rfl
    | cons x b ih =>
      intro k
      have hpos : 0 < 256 ^ b.length := Nat.pow_pos (by omega)
      have hlt := beVal_lt b
      rw [List.length_cons, beBytes, beVal_cons]
      have hsplit : k * 256 ^ (b.length + 1) + (x.toNat * 256 ^ b.length + beVal b)
          = (k * 256 + x.toNat) * 256 ^ b.length + beVal b := by rw [pow_succ]; ring
      rw [hsplit, ih, Nat.add_comm, Nat.add_mul_div_right _ _ hpos, Nat.div_eq_of_lt hlt, Nat.zero_add]
      congr 1
      apply BitVec.eq_of_toNat_eq
      simp [BitVec.toNat_ofNat, Nat.add_mod, Nat.mul_mod_left, Nat.mod_eq_of_lt x.isLt]
  simpa using key b 0

theorem rd16_lt (b : List Byte) (i : Nat) : rd16 b i < 65536 := by
  have h1 := (b.getD i 0).isLt
  have h2 := (b.getD (i + 1) 0).isLt
  simp only [rd16]
  omega

/-- Two bytes of a field that fits read back as the field. -/
theorem field16 {v : Nat} (h : v < 65536) :
    (BitVec.ofNat 8 (v / 256)).toNat * 256 + (BitVec.ofNat 8 v).toNat = v := by
  simp only [BitVec.toNat_ofNat]
  omega

/-- The first field of a sequence that begins with a 16-bit field. -/
theorem rd16_be16_zero {v : Nat} (h : v < 65536) (rest : List Byte) : rd16 (be16 v ++ rest) 0 = v := by
  simpa [rd16, be16_eq] using field16 h

/-- A field behind two bytes is read two bytes further. -/
theorem rd16_be16_skip (v i : Nat) (rest : List Byte) : rd16 (be16 v ++ rest) (i + 2) = rd16 rest i := by
  simp [rd16, be16_eq]

/-- A field behind four bytes is read four bytes further. -/
theorem rd16_be32_skip (v i : Nat) (rest : List Byte) : rd16 (be32 v ++ rest) (i + 4) = rd16 rest i := by
  simp [rd16, be32_eq]

/-- The two bytes of a 16-bit field, from the field. -/
theorem be16_rd16 (b0 b1 : Byte) (rest : List Byte) : be16 (rd16 (b0 :: b1 :: rest) 0) = [b0, b1] := by
  have h := beBytes_beVal [b0, b1]
  simpa [be16, rd16, beVal] using h

@[simp] theorem length_recordFrame (id : Nat) (p : List Byte) :
    (recordFrame id p).length = 4 + p.length := by
  simp [recordFrame]; omega

/-- The size field of a Record frame is its length (30_encoding.md R95). -/
theorem rd16_recordFrame_size (id : Nat) {p : List Byte} (h : 4 + p.length < 65536) :
    rd16 (recordFrame id p) 0 = 4 + p.length := by
  simp only [recordFrame, List.append_assoc]
  exact rd16_be16_zero h _

theorem rd16_recordFrame_id {id : Nat} (hid : id < 65536) (p : List Byte) :
    rd16 (recordFrame id p) 2 = id := by
  simp only [recordFrame, List.append_assoc]
  rw [show (2 : Nat) = 0 + 2 from rfl, rd16_be16_skip]
  exact rd16_be16_zero hid _

@[simp] theorem recordFrame_drop (id : Nat) (p : List Byte) : (recordFrame id p).drop 4 = p := by
  simp [recordFrame, be16_eq]

/-- A Record frame passes the framing test of REC.DEC and REC.CLS (30_encoding.md R95). -/
theorem wellFramed_recordFrame (id : Nat) {p : List Byte} (h : 4 + p.length < 65536) :
    Machine.wellFramed (recordFrame id p) = true := by
  simp [Machine.wellFramed, Machine.frameSize, rd16_recordFrame_size id h]

/-- An acknowledgement frame is the Record frame with id `ACK_RECID` and the code as payload (30_encoding.md R96). -/
theorem ackFrame_eq (ackRecid : BitVec 16) (code : Nat) :
    ackFrame ackRecid code = recordFrame ackRecid.toNat (be16 code) := by
  simp [ackFrame, recordFrame]

/-- A chunk is the Record frame with id `SEQ_TAG` (43_sequence_packetizer.md R216). -/
theorem chunkDatagram_eq (tag j total : Nat) (data : List Byte) :
    chunkDatagram tag j total data =
      recordFrame tag (be16 j ++ be16 total ++ be16 data.length ++ data) := by
  have h : 4 + (be16 j ++ be16 total ++ be16 data.length ++ data).length = 10 + data.length := by
    simp; omega
  rw [recordFrame, h]
  simp only [chunkDatagram, List.append_assoc]

end Sys2Proof
end

