-- ==== Sys2Proof/Laws/Descriptor.lean ====
section
/-! SUPPORT. Lemmas about descriptor words under a valid layout (30_encoding.md R97, R98). -/

namespace Sys2Proof

theorem find_position {pos : Vector (Fin 16) 16} (hpos : ∀ i j : Fin 16, pos[i] = pos[j] → i = j)
    (i : Fin 16) : (List.finRange 16).find? (fun k => pos[k] == pos[i]) = some i := by
  cases h : (List.finRange 16).find? (fun k => pos[k] == pos[i]) with
  | none =>
    have := List.find?_eq_none.1 h i (List.mem_finRange i)
    simp at this
  | some k =>
    have hk := List.find?_some h
    rw [hpos k i (by simpa using hk)]

theorem scatterBits_getLsbD {pos : Vector (Fin 16) 16}
    (hpos : ∀ i j : Fin 16, pos[i] = pos[j] → i = j) (c : BitVec 16) (i : Fin 16) :
    (scatterBits pos c).getLsbD (pos[i]).val = c.getLsbD i.val := by
  have hf := find_position hpos i
  simp only [scatterBits, BitVec.getLsbD_ofFnLE, (pos[i]).isLt, dite_true, Fin.eta, hf]

theorem gatherBits_getLsbD (pos : Vector (Fin 16) 16) (w : BitVec 16) (i : Fin 16) :
    (gatherBits pos w).getLsbD i.val = w.getLsbD (pos[i]).val := by
  simp [gatherBits]

/-- What was put in a variant's places is found there again. -/
theorem gather_scatter {pos : Vector (Fin 16) 16} (hpos : ∀ i j : Fin 16, pos[i] = pos[j] → i = j)
    (c : BitVec 16) : gatherBits pos (scatterBits pos c) = c := by
  apply BitVec.eq_of_getLsbD_eq
  intro i hi
  rw [gatherBits_getLsbD pos _ ⟨i, hi⟩, scatterBits_getLsbD hpos c ⟨i, hi⟩]

/-- What is found in a variant's places makes up the word again. -/
theorem scatter_gather {pos : Vector (Fin 16) 16} (hpos : ∀ i j : Fin 16, pos[i] = pos[j] → i = j)
    (w : BitVec 16) : scatterBits pos (gatherBits pos w) = w := by
  apply BitVec.eq_of_getLsbD_eq
  intro j hj
  have hsurj : Function.Surjective (fun i : Fin 16 => pos[i]) :=
    Finite.injective_iff_surjective.1 fun i k h => hpos i k h
  obtain ⟨i, hi⟩ := hsurj ⟨j, hj⟩
  have hval : (pos[i]).val = j := by simpa using congrArg Fin.val hi
  rw [← hval, scatterBits_getLsbD hpos, gatherBits_getLsbD]

theorem RleLayout.valid_rle {L : RleLayout} (h : L.valid = true) :
    ∀ i j : Fin 16, L.rlePos[i] = L.rlePos[j] → i = j := by
  simp only [RleLayout.valid, Bool.and_eq_true, decide_eq_true_eq] at h
  exact h.1.1

theorem RleLayout.valid_raw {L : RleLayout} (h : L.valid = true) :
    ∀ i j : Fin 16, L.rawPos[i] = L.rawPos[j] → i = j := by
  simp only [RleLayout.valid, Bool.and_eq_true, decide_eq_true_eq] at h
  exact h.1.2

theorem RleLayout.valid_tag {L : RleLayout} (h : L.valid = true) :
    L.rlePos[(15 : Fin 16)] = L.rawPos[(15 : Fin 16)] := by
  simp only [RleLayout.valid, Bool.and_eq_true, decide_eq_true_eq] at h
  exact h.2

/-- The bits of a word made of the four RLE fields, from the top (30_encoding.md R97). -/
theorem rleWord_getLsbD (t b : Bool) (p : BitVec 3) (l : BitVec 11) (i : Nat) (hi : i < 16) :
    (BitVec.ofBool t ++ BitVec.ofBool b ++ p ++ l : BitVec 16).getLsbD i =
      if i < 11 then l.getLsbD i
      else if i < 14 then p.getLsbD (i - 11)
      else if i < 15 then b
      else t := by
  rw [BitVec.getLsbD_append, BitVec.getLsbD_append, BitVec.getLsbD_append]
  by_cases h1 : i < 11
  · simp [h1]
  · by_cases h2 : i < 14
    · simp [h1, h2, (by omega : i - 11 < 3)]
    · by_cases h3 : i < 15
      · have : i = 14 := by omega
        subst this
        cases b <;> simp
      · have : i = 15 := by omega
        subst this
        cases t <;> simp

/-- The bits of a word made of the three Raw fields, from the top (30_encoding.md R98). -/
theorem rawWord_getLsbD (t : Bool) (r : BitVec 7) (v : Byte) (i : Nat) (hi : i < 16) :
    (BitVec.ofBool t ++ r ++ v : BitVec 16).getLsbD i =
      if i < 8 then v.getLsbD i
      else if i < 15 then r.getLsbD (i - 8)
      else t := by
  rw [BitVec.getLsbD_append, BitVec.getLsbD_append]
  by_cases h1 : i < 8
  · simp [h1]
  · by_cases h2 : i < 15
    · simp [h1, h2, (by omega : i - 8 < 7)]
    · have : i = 15 := by omega
      subst this
      cases t <;> simp

theorem rleWord_tag (t b : Bool) (p : BitVec 3) (l : BitVec 11) :
    (BitVec.ofBool t ++ BitVec.ofBool b ++ p ++ l : BitVec 16).getLsbD 15 = t := by
  rw [rleWord_getLsbD _ _ _ _ _ (by omega)]; simp

theorem rawWord_tag (t : Bool) (r : BitVec 7) (v : Byte) :
    (BitVec.ofBool t ++ r ++ v : BitVec 16).getLsbD 15 = t := by
  rw [rawWord_getLsbD _ _ _ _ (by omega)]; simp

theorem rleWord_bit (t b : Bool) (p : BitVec 3) (l : BitVec 11) :
    (BitVec.ofBool t ++ BitVec.ofBool b ++ p ++ l : BitVec 16).getLsbD 14 = b := by
  rw [rleWord_getLsbD _ _ _ _ _ (by omega)]; simp

theorem rleWord_pos (t b : Bool) (p : BitVec 3) (l : BitVec 11) :
    (BitVec.ofBool t ++ BitVec.ofBool b ++ p ++ l : BitVec 16).extractLsb' 11 3 = p := by
  apply BitVec.eq_of_getLsbD_eq
  intro i hi
  rw [BitVec.getLsbD_extractLsb', rleWord_getLsbD _ _ _ _ _ (by omega)]
  simp [hi, (by omega : 11 + i < 14)]

theorem rleWord_len (t b : Bool) (p : BitVec 3) (l : BitVec 11) :
    (BitVec.ofBool t ++ BitVec.ofBool b ++ p ++ l : BitVec 16).extractLsb' 0 11 = l := by
  apply BitVec.eq_of_getLsbD_eq
  intro i hi
  rw [BitVec.getLsbD_extractLsb', rleWord_getLsbD _ _ _ _ _ (by omega)]
  simp [hi]

theorem rawWord_reserved (t : Bool) (r : BitVec 7) (v : Byte) :
    (BitVec.ofBool t ++ r ++ v : BitVec 16).extractLsb' 8 7 = r := by
  apply BitVec.eq_of_getLsbD_eq
  intro i hi
  rw [BitVec.getLsbD_extractLsb', rawWord_getLsbD _ _ _ _ (by omega)]
  simp [hi, (by omega : 8 + i < 15)]

theorem rawWord_value (t : Bool) (r : BitVec 7) (v : Byte) :
    (BitVec.ofBool t ++ r ++ v : BitVec 16).extractLsb' 0 8 = v := by
  apply BitVec.eq_of_getLsbD_eq
  intro i hi
  rw [BitVec.getLsbD_extractLsb', rawWord_getLsbD _ _ _ _ (by omega)]
  simp [hi]

/-- A descriptor is read back from its word, under every valid layout. -/
theorem wordDesc_descWord {L : RleLayout} (h : L.valid = true) (d : Desc) :
    wordDesc L (descWord L d) = d := by
  cases d with
  | rle b p l =>
    have htag : (scatterBits L.rlePos
        (BitVec.ofBool L.rleTag ++ BitVec.ofBool b ++ p ++ l : BitVec 16)).getLsbD
          (L.rlePos[(15 : Fin 16)]).val = L.rleTag :=
      (scatterBits_getLsbD (RleLayout.valid_rle h) _ 15).trans (rleWord_tag _ _ _ _)
    simp only [descWord, wordDesc, htag, if_true, gather_scatter (RleLayout.valid_rle h), rleWord_bit, rleWord_pos,
      rleWord_len]
  | raw r v =>
    have htag : (scatterBits L.rawPos
        (BitVec.ofBool (!L.rleTag) ++ r ++ v : BitVec 16)).getLsbD
          (L.rlePos[(15 : Fin 16)]).val = !L.rleTag := by
      rw [RleLayout.valid_tag h]
      exact (scatterBits_getLsbD (RleLayout.valid_raw h) _ 15).trans (rawWord_tag _ _ _)
    simp only [descWord, wordDesc, htag, gather_scatter (RleLayout.valid_raw h), rawWord_reserved, rawWord_value]
    cases L.rleTag <;> simp

/-- A word is written back from its descriptor: no bit of it is dropped, under every valid layout. -/
theorem descWord_wordDesc {L : RleLayout} (h : L.valid = true) (w : BitVec 16) :
    descWord L (wordDesc L w) = w := by
  unfold wordDesc
  split
  · rename_i ht
    refine Eq.trans (congrArg (scatterBits L.rlePos) ?_) (scatter_gather (RleLayout.valid_rle h) w)
    apply BitVec.eq_of_getLsbD_eq
    intro i hi
    rw [rleWord_getLsbD _ _ _ _ _ hi]
    by_cases h1 : i < 11
    · simp [h1]
    · by_cases h2 : i < 14
      · simp [h1, h2, (by omega : i - 11 < 3), (by omega : 11 + (i - 11) = i)]
      · by_cases h3 : i < 15
        · obtain rfl : i = 14 := by omega
          simp
        · obtain rfl : i = 15 := by omega
          have hg := gatherBits_getLsbD L.rlePos w 15
          simp only [h1, h2, h3, if_false]
          rw [← ht]
          exact hg.symm
  · rename_i ht
    refine Eq.trans (congrArg (scatterBits L.rawPos) ?_) (scatter_gather (RleLayout.valid_raw h) w)
    apply BitVec.eq_of_getLsbD_eq
    intro i hi
    rw [rawWord_getLsbD _ _ _ _ hi]
    by_cases h1 : i < 8
    · simp [h1]
    · by_cases h2 : i < 15
      · simp [h1, h2, (by omega : i - 8 < 7), (by omega : 8 + (i - 8) = i)]
      · obtain rfl : i = 15 := by omega
        have hg := gatherBits_getLsbD L.rawPos w 15
        rw [RleLayout.valid_tag h, ← hg] at ht
        simp only [h1, h2, if_false]
        revert ht
        cases L.rleTag <;> simp

end Sys2Proof
end

