-- ==== Sys2Proof/Laws/Operands.lean ====
section
/-! SUPPORT. The tests of the commands as propositions: one lemma per test. -/

namespace Sys2Proof.Machine

theorem widthOk_iff (s : State) : widthOk s = true ↔ s.width.toNat ≠ 0 ∧ s.width.toNat % 8 = 0 := by
  simp [widthOk]

theorem widthOk_false_iff (s : State) :
    (!widthOk s) = true ↔ s.width.toNat = 0 ∨ s.width.toNat % 8 ≠ 0 := by
  rw [Bool.not_eq_true', ← Bool.not_eq_true, widthOk_iff]
  tauto

theorem wellFramed_iff (b : List Byte) : wellFramed b = true ↔ 4 ≤ b.length ∧ rd16 b 0 = b.length := by
  simp [wellFramed]

theorem isAckFrame_iff (a : BitVec 16) (b : List Byte) :
    isAckFrame a b = true ↔ b.length = 6 ∧ rd16 b 2 = a.toNat := by
  simp [isAckFrame]

theorem chunkSizeOk_false_iff (c : BlockConfig) (cs : Nat) :
    (!chunkSizeOk c cs) = true ↔ cs = 0 ∨ cs % 8 ≠ 0 ∨ c.seqDgramMax < cs + c.seqHdrBytes := by
  have h : chunkSizeOk c cs = true ↔ cs ≠ 0 ∧ cs % 8 = 0 ∧ cs + c.seqHdrBytes ≤ c.seqDgramMax := by
    simp only [chunkSizeOk, Bool.and_eq_true, decide_eq_true_eq, and_assoc]
  rw [Bool.not_eq_true', ← Bool.not_eq_true, h]
  omega

end Sys2Proof.Machine
end

