-- ==== Sys2Proof/Laws/State.lean ====
section
/-! SUPPORT. One lemma per field per update of State, so that no later proof unfolds a record update. -/

namespace Sys2Proof.Machine

/-! ### clear -/

@[simp] theorem clear_recid (s : State) : (clear s).recid = s.recid := rfl
@[simp] theorem clear_inum (s : State) : (clear s).inum = s.inum := rfl
@[simp] theorem clear_width (s : State) : (clear s).width = s.width := rfl
@[simp] theorem clear_lpp (s : State) : (clear s).lpp = s.lpp := rfl
@[simp] theorem clear_chunk (s : State) : (clear s).chunk = s.chunk := rfl
@[simp] theorem clear_st (s : State) : (clear s).st = .idle := rfl
@[simp] theorem clear_faultCode (s : State) : (clear s).faultCode = 0 := rfl
@[simp] theorem clear_faultParam (s : State) : (clear s).faultParam = 0 := rfl
@[simp] theorem clear_inBuf (s : State) : (clear s).inBuf = s.inBuf := rfl
@[simp] theorem clear_outq (s : State) : (clear s).outq = [] := rfl
@[simp] theorem clear_outidx (s : State) : (clear s).outidx = 0 := rfl
@[simp] theorem clear_rsize (s : State) : (clear s).rsize = s.rsize := rfl
@[simp] theorem clear_rrecid (s : State) : (clear s).rrecid = s.rrecid := rfl
@[simp] theorem clear_rclass (s : State) : (clear s).rclass = s.rclass := rfl
@[simp] theorem clear_rcode (s : State) : (clear s).rcode = s.rcode := rfl
@[simp] theorem clear_cfg (s : State) : (clear s).cfg = s.cfg := rfl
@[simp] theorem clear_pending (s : State) : (clear s).pending = s.pending := rfl
@[simp] theorem clear_handed (s : State) : (clear s).handed = s.handed := rfl
@[simp] theorem clear_reads (s : State) : (clear s).reads = s.reads := rfl
@[simp] theorem clear_session (s : State) : (clear s).session = s.session := rfl
@[simp] theorem clear_reports (s : State) : (clear s).reports = s.reports := rfl

/-! ### faulted -/

@[simp] theorem faulted_recid (c p : BitVec 8) (s : State) : (faulted c p s).recid = s.recid := rfl
@[simp] theorem faulted_inum (c p : BitVec 8) (s : State) : (faulted c p s).inum = s.inum := rfl
@[simp] theorem faulted_width (c p : BitVec 8) (s : State) : (faulted c p s).width = s.width := rfl
@[simp] theorem faulted_lpp (c p : BitVec 8) (s : State) : (faulted c p s).lpp = s.lpp := rfl
@[simp] theorem faulted_chunk (c p : BitVec 8) (s : State) : (faulted c p s).chunk = s.chunk := rfl
@[simp] theorem faulted_st (c p : BitVec 8) (s : State) : (faulted c p s).st = .fault := rfl
@[simp] theorem faulted_faultCode (c p : BitVec 8) (s : State) : (faulted c p s).faultCode = c := rfl
@[simp] theorem faulted_faultParam (c p : BitVec 8) (s : State) : (faulted c p s).faultParam = p := rfl
@[simp] theorem faulted_inBuf (c p : BitVec 8) (s : State) : (faulted c p s).inBuf = s.inBuf := rfl
@[simp] theorem faulted_outq (c p : BitVec 8) (s : State) : (faulted c p s).outq = [] := rfl
@[simp] theorem faulted_outidx (c p : BitVec 8) (s : State) : (faulted c p s).outidx = 0 := rfl
@[simp] theorem faulted_rsize (c p : BitVec 8) (s : State) : (faulted c p s).rsize = s.rsize := rfl
@[simp] theorem faulted_rrecid (c p : BitVec 8) (s : State) : (faulted c p s).rrecid = s.rrecid := rfl
@[simp] theorem faulted_rclass (c p : BitVec 8) (s : State) : (faulted c p s).rclass = s.rclass := rfl
@[simp] theorem faulted_rcode (c p : BitVec 8) (s : State) : (faulted c p s).rcode = s.rcode := rfl
@[simp] theorem faulted_cfg (c p : BitVec 8) (s : State) : (faulted c p s).cfg = s.cfg := rfl
@[simp] theorem faulted_pending (c p : BitVec 8) (s : State) : (faulted c p s).pending = s.pending := rfl
@[simp] theorem faulted_handed (c p : BitVec 8) (s : State) : (faulted c p s).handed = s.handed := rfl
@[simp] theorem faulted_reads (c p : BitVec 8) (s : State) : (faulted c p s).reads = s.reads := rfl
@[simp] theorem faulted_session (c p : BitVec 8) (s : State) : (faulted c p s).session = s.session := rfl
@[simp] theorem faulted_reports (c p : BitVec 8) (s : State) : (faulted c p s).reports = s.reports := rfl

/-! ### produced -/

@[simp] theorem produced_recid (q : List Datagram) (s : State) : (produced q s).recid = s.recid := rfl
@[simp] theorem produced_inum (q : List Datagram) (s : State) : (produced q s).inum = s.inum := rfl
@[simp] theorem produced_width (q : List Datagram) (s : State) : (produced q s).width = s.width := rfl
@[simp] theorem produced_lpp (q : List Datagram) (s : State) : (produced q s).lpp = s.lpp := rfl
@[simp] theorem produced_chunk (q : List Datagram) (s : State) : (produced q s).chunk = s.chunk := rfl
@[simp] theorem produced_st (q : List Datagram) (s : State) : (produced q s).st = .ready := rfl
@[simp] theorem produced_faultCode (q : List Datagram) (s : State) : (produced q s).faultCode = s.faultCode := rfl
@[simp] theorem produced_faultParam (q : List Datagram) (s : State) : (produced q s).faultParam = s.faultParam := rfl
@[simp] theorem produced_inBuf (q : List Datagram) (s : State) : (produced q s).inBuf = s.inBuf := rfl
@[simp] theorem produced_outq (q : List Datagram) (s : State) : (produced q s).outq = q := rfl
@[simp] theorem produced_outidx (q : List Datagram) (s : State) : (produced q s).outidx = 0 := rfl
@[simp] theorem produced_rsize (q : List Datagram) (s : State) : (produced q s).rsize = s.rsize := rfl
@[simp] theorem produced_rrecid (q : List Datagram) (s : State) : (produced q s).rrecid = s.rrecid := rfl
@[simp] theorem produced_rclass (q : List Datagram) (s : State) : (produced q s).rclass = s.rclass := rfl
@[simp] theorem produced_rcode (q : List Datagram) (s : State) : (produced q s).rcode = s.rcode := rfl
@[simp] theorem produced_cfg (q : List Datagram) (s : State) : (produced q s).cfg = s.cfg := rfl
@[simp] theorem produced_pending (q : List Datagram) (s : State) : (produced q s).pending = s.pending := rfl
@[simp] theorem produced_handed (q : List Datagram) (s : State) : (produced q s).handed = s.handed := rfl
@[simp] theorem produced_reads (q : List Datagram) (s : State) : (produced q s).reads = s.reads := rfl
@[simp] theorem produced_session (q : List Datagram) (s : State) : (produced q s).session = s.session := rfl
@[simp] theorem produced_reports (q : List Datagram) (s : State) : (produced q s).reports = s.reports := rfl

/-! ### doRead -/

@[simp] theorem doRead_recid (n : Nat) (s : State) : (doRead n s).recid = s.recid := rfl
@[simp] theorem doRead_inum (n : Nat) (s : State) : (doRead n s).inum = s.inum := rfl
@[simp] theorem doRead_width (n : Nat) (s : State) : (doRead n s).width = s.width := rfl
@[simp] theorem doRead_lpp (n : Nat) (s : State) : (doRead n s).lpp = s.lpp := rfl
@[simp] theorem doRead_chunk (n : Nat) (s : State) : (doRead n s).chunk = s.chunk := rfl
@[simp] theorem doRead_st (n : Nat) (s : State) : (doRead n s).st = s.st := rfl
@[simp] theorem doRead_faultCode (n : Nat) (s : State) : (doRead n s).faultCode = s.faultCode := rfl
@[simp] theorem doRead_faultParam (n : Nat) (s : State) : (doRead n s).faultParam = s.faultParam := rfl
@[simp] theorem doRead_inBuf (n : Nat) (s : State) : (doRead n s).inBuf = s.inBuf := rfl
@[simp] theorem doRead_outq (n : Nat) (s : State) : (doRead n s).outq = s.outq := rfl
@[simp] theorem doRead_outidx (n : Nat) (s : State) : (doRead n s).outidx = s.outidx := rfl
@[simp] theorem doRead_rsize (n : Nat) (s : State) : (doRead n s).rsize = s.rsize := rfl
@[simp] theorem doRead_rrecid (n : Nat) (s : State) : (doRead n s).rrecid = s.rrecid := rfl
@[simp] theorem doRead_rclass (n : Nat) (s : State) : (doRead n s).rclass = s.rclass := rfl
@[simp] theorem doRead_rcode (n : Nat) (s : State) : (doRead n s).rcode = s.rcode := rfl
@[simp] theorem doRead_cfg (n : Nat) (s : State) : (doRead n s).cfg = s.cfg := rfl
@[simp] theorem doRead_pending (n : Nat) (s : State) : (doRead n s).pending = s.pending := rfl
@[simp] theorem doRead_handed (n : Nat) (s : State) : (doRead n s).handed = s.handed := rfl
@[simp] theorem doRead_reads (n : Nat) (s : State) : (doRead n s).reads = s.reads ++ [valueAt n s] := rfl
@[simp] theorem doRead_session (n : Nat) (s : State) : (doRead n s).session = s.session := rfl
@[simp] theorem doRead_reports (n : Nat) (s : State) : (doRead n s).reports = s.reports := rfl

/-! ### withSession -/

@[simp] theorem withSession_recid (ss : Session) (s : State) : (withSession ss s).recid = s.recid := rfl
@[simp] theorem withSession_inum (ss : Session) (s : State) : (withSession ss s).inum = s.inum := rfl
@[simp] theorem withSession_width (ss : Session) (s : State) : (withSession ss s).width = s.width := rfl
@[simp] theorem withSession_lpp (ss : Session) (s : State) : (withSession ss s).lpp = s.lpp := rfl
@[simp] theorem withSession_chunk (ss : Session) (s : State) : (withSession ss s).chunk = s.chunk := rfl
@[simp] theorem withSession_st (ss : Session) (s : State) : (withSession ss s).st = s.st := rfl
@[simp] theorem withSession_faultCode (ss : Session) (s : State) : (withSession ss s).faultCode = s.faultCode := rfl
@[simp] theorem withSession_faultParam (ss : Session) (s : State) : (withSession ss s).faultParam = s.faultParam := rfl
@[simp] theorem withSession_inBuf (ss : Session) (s : State) : (withSession ss s).inBuf = s.inBuf := rfl
@[simp] theorem withSession_outq (ss : Session) (s : State) : (withSession ss s).outq = s.outq := rfl
@[simp] theorem withSession_outidx (ss : Session) (s : State) : (withSession ss s).outidx = s.outidx := rfl
@[simp] theorem withSession_rsize (ss : Session) (s : State) : (withSession ss s).rsize = s.rsize := rfl
@[simp] theorem withSession_rrecid (ss : Session) (s : State) : (withSession ss s).rrecid = s.rrecid := rfl
@[simp] theorem withSession_rclass (ss : Session) (s : State) : (withSession ss s).rclass = s.rclass := rfl
@[simp] theorem withSession_rcode (ss : Session) (s : State) : (withSession ss s).rcode = s.rcode := rfl
@[simp] theorem withSession_cfg (ss : Session) (s : State) : (withSession ss s).cfg = s.cfg := rfl
@[simp] theorem withSession_pending (ss : Session) (s : State) : (withSession ss s).pending = s.pending := rfl
@[simp] theorem withSession_handed (ss : Session) (s : State) : (withSession ss s).handed = s.handed := rfl
@[simp] theorem withSession_reads (ss : Session) (s : State) : (withSession ss s).reads = s.reads := rfl
@[simp] theorem withSession_session (ss : Session) (s : State) : (withSession ss s).session = some ss := rfl
@[simp] theorem withSession_reports (ss : Session) (s : State) : (withSession ss s).reports = s.reports := rfl

/-! ### doReset -/

@[simp] theorem doReset_recid (s : State) : (doReset s).recid = State.reset.recid := rfl
@[simp] theorem doReset_inum (s : State) : (doReset s).inum = State.reset.inum := rfl
@[simp] theorem doReset_width (s : State) : (doReset s).width = State.reset.width := rfl
@[simp] theorem doReset_lpp (s : State) : (doReset s).lpp = State.reset.lpp := rfl
@[simp] theorem doReset_chunk (s : State) : (doReset s).chunk = s.cfg.defaultChunk := rfl
@[simp] theorem doReset_st (s : State) : (doReset s).st = State.reset.st := rfl
@[simp] theorem doReset_faultCode (s : State) : (doReset s).faultCode = State.reset.faultCode := rfl
@[simp] theorem doReset_faultParam (s : State) : (doReset s).faultParam = State.reset.faultParam := rfl
@[simp] theorem doReset_inBuf (s : State) : (doReset s).inBuf = State.reset.inBuf := rfl
@[simp] theorem doReset_outq (s : State) : (doReset s).outq = State.reset.outq := rfl
@[simp] theorem doReset_outidx (s : State) : (doReset s).outidx = State.reset.outidx := rfl
@[simp] theorem doReset_rsize (s : State) : (doReset s).rsize = State.reset.rsize := rfl
@[simp] theorem doReset_rrecid (s : State) : (doReset s).rrecid = State.reset.rrecid := rfl
@[simp] theorem doReset_rclass (s : State) : (doReset s).rclass = State.reset.rclass := rfl
@[simp] theorem doReset_rcode (s : State) : (doReset s).rcode = State.reset.rcode := rfl
@[simp] theorem doReset_cfg (s : State) : (doReset s).cfg = s.cfg := rfl
@[simp] theorem doReset_pending (s : State) : (doReset s).pending = s.pending := rfl
@[simp] theorem doReset_handed (s : State) : (doReset s).handed = s.handed := rfl
@[simp] theorem doReset_reads (s : State) : (doReset s).reads = s.reads := rfl
@[simp] theorem doReset_session (s : State) : (doReset s).session = s.session := rfl
@[simp] theorem doReset_reports (s : State) : (doReset s).reports = s.reports := rfl

/-! ### endSession -/

@[simp] theorem endSession_recid (ss e : Session) (s : State) : (endSession ss e s).recid = s.recid := rfl
@[simp] theorem endSession_inum (ss e : Session) (s : State) : (endSession ss e s).inum = s.inum := rfl
@[simp] theorem endSession_width (ss e : Session) (s : State) : (endSession ss e s).width = s.width := rfl
@[simp] theorem endSession_lpp (ss e : Session) (s : State) : (endSession ss e s).lpp = s.lpp := rfl
@[simp] theorem endSession_chunk (ss e : Session) (s : State) : (endSession ss e s).chunk = s.chunk := rfl
@[simp] theorem endSession_st (ss e : Session) (s : State) : (endSession ss e s).st = .idle := rfl
@[simp] theorem endSession_faultCode (ss e : Session) (s : State) : (endSession ss e s).faultCode = 0 := rfl
@[simp] theorem endSession_faultParam (ss e : Session) (s : State) : (endSession ss e s).faultParam = 0 := rfl
@[simp] theorem endSession_inBuf (ss e : Session) (s : State) : (endSession ss e s).inBuf = s.inBuf := rfl
@[simp] theorem endSession_outq (ss e : Session) (s : State) : (endSession ss e s).outq = [] := rfl
@[simp] theorem endSession_outidx (ss e : Session) (s : State) : (endSession ss e s).outidx = 0 := rfl
@[simp] theorem endSession_rsize (ss e : Session) (s : State) : (endSession ss e s).rsize = s.rsize := rfl
@[simp] theorem endSession_rrecid (ss e : Session) (s : State) : (endSession ss e s).rrecid = s.rrecid := rfl
@[simp] theorem endSession_rclass (ss e : Session) (s : State) : (endSession ss e s).rclass = s.rclass := rfl
@[simp] theorem endSession_rcode (ss e : Session) (s : State) : (endSession ss e s).rcode = s.rcode := rfl
@[simp] theorem endSession_cfg (ss e : Session) (s : State) : (endSession ss e s).cfg = s.cfg := rfl
@[simp] theorem endSession_pending (ss e : Session) (s : State) : (endSession ss e s).pending = s.pending := rfl
@[simp] theorem endSession_handed (ss e : Session) (s : State) : (endSession ss e s).handed = s.handed := rfl
@[simp] theorem endSession_reads (ss e : Session) (s : State) : (endSession ss e s).reads = s.reads := rfl
@[simp] theorem endSession_session (ss e : Session) (s : State) : (endSession ss e s).session = none := rfl
@[simp] theorem endSession_reports (ss e : Session) (s : State) : (endSession ss e s).reports = s.reports ++ [{ last := ss.phase, session := e }] := rfl

/-! ### fault entry -/

theorem raise_of_fault (f : BlockFault) (s : State) (h : s.st = .fault) : raise f s = s := by
  simp [raise, h]

theorem raise_of_not_fault (f : BlockFault) (s : State) (h : s.st ≠ .fault) :
    raise f s = faulted (faultCodeOf f) (faultParamOf f) s := by
  cases hs : s.st <;> simp_all [raise, faulted]

@[simp] theorem raise_st (f : BlockFault) (s : State) : (raise f s).st = .fault := by
  cases hs : s.st <;> simp [raise, hs]

@[simp] theorem raise_recid (f : BlockFault) (s : State) : (raise f s).recid = s.recid := by
  cases hs : s.st <;> simp [raise, hs]

@[simp] theorem raise_inum (f : BlockFault) (s : State) : (raise f s).inum = s.inum := by
  cases hs : s.st <;> simp [raise, hs]

@[simp] theorem raise_width (f : BlockFault) (s : State) : (raise f s).width = s.width := by
  cases hs : s.st <;> simp [raise, hs]

@[simp] theorem raise_lpp (f : BlockFault) (s : State) : (raise f s).lpp = s.lpp := by
  cases hs : s.st <;> simp [raise, hs]

@[simp] theorem raise_chunk (f : BlockFault) (s : State) : (raise f s).chunk = s.chunk := by
  cases hs : s.st <;> simp [raise, hs]

@[simp] theorem raise_inBuf (f : BlockFault) (s : State) : (raise f s).inBuf = s.inBuf := by
  cases hs : s.st <;> simp [raise, hs]

@[simp] theorem raise_rsize (f : BlockFault) (s : State) : (raise f s).rsize = s.rsize := by
  cases hs : s.st <;> simp [raise, hs]

@[simp] theorem raise_rrecid (f : BlockFault) (s : State) : (raise f s).rrecid = s.rrecid := by
  cases hs : s.st <;> simp [raise, hs]

@[simp] theorem raise_rclass (f : BlockFault) (s : State) : (raise f s).rclass = s.rclass := by
  cases hs : s.st <;> simp [raise, hs]

@[simp] theorem raise_rcode (f : BlockFault) (s : State) : (raise f s).rcode = s.rcode := by
  cases hs : s.st <;> simp [raise, hs]

@[simp] theorem raise_cfg (f : BlockFault) (s : State) : (raise f s).cfg = s.cfg := by
  cases hs : s.st <;> simp [raise, hs]

@[simp] theorem raise_pending (f : BlockFault) (s : State) : (raise f s).pending = s.pending := by
  cases hs : s.st <;> simp [raise, hs]

@[simp] theorem raise_handed (f : BlockFault) (s : State) : (raise f s).handed = s.handed := by
  cases hs : s.st <;> simp [raise, hs]

@[simp] theorem raise_reads (f : BlockFault) (s : State) : (raise f s).reads = s.reads := by
  cases hs : s.st <;> simp [raise, hs]

@[simp] theorem raise_session (f : BlockFault) (s : State) : (raise f s).session = s.session := by
  cases hs : s.st <;> simp [raise, hs]

@[simp] theorem raise_reports (f : BlockFault) (s : State) : (raise f s).reports = s.reports := by
  cases hs : s.st <;> simp [raise, hs]

/-! ### a command's last act -/

@[simp] theorem finish_st (r : OpResult) (s : State) : (finish r s).st = .ready := rfl

@[simp] theorem finish_outq (r : OpResult) (s : State) : (finish r s).outq = r.outq := rfl

@[simp] theorem finish_outidx (r : OpResult) (s : State) : (finish r s).outidx = 0 := rfl

@[simp] theorem finish_recid (r : OpResult) (s : State) : (finish r s).recid = s.recid := by
  cases hr : r.reply <;> simp [finish, writeReply, hr]

@[simp] theorem finish_inum (r : OpResult) (s : State) : (finish r s).inum = s.inum := by
  cases hr : r.reply <;> simp [finish, writeReply, hr]

@[simp] theorem finish_width (r : OpResult) (s : State) : (finish r s).width = s.width := by
  cases hr : r.reply <;> simp [finish, writeReply, hr]

@[simp] theorem finish_lpp (r : OpResult) (s : State) : (finish r s).lpp = s.lpp := by
  cases hr : r.reply <;> simp [finish, writeReply, hr]

@[simp] theorem finish_chunk (r : OpResult) (s : State) : (finish r s).chunk = s.chunk := by
  cases hr : r.reply <;> simp [finish, writeReply, hr]

@[simp] theorem finish_faultCode (r : OpResult) (s : State) : (finish r s).faultCode = s.faultCode := by
  cases hr : r.reply <;> simp [finish, writeReply, hr]

@[simp] theorem finish_faultParam (r : OpResult) (s : State) : (finish r s).faultParam = s.faultParam := by
  cases hr : r.reply <;> simp [finish, writeReply, hr]

@[simp] theorem finish_inBuf (r : OpResult) (s : State) : (finish r s).inBuf = s.inBuf := by
  cases hr : r.reply <;> simp [finish, writeReply, hr]

@[simp] theorem finish_cfg (r : OpResult) (s : State) : (finish r s).cfg = s.cfg := by
  cases hr : r.reply <;> simp [finish, writeReply, hr]

@[simp] theorem finish_pending (r : OpResult) (s : State) : (finish r s).pending = s.pending := by
  cases hr : r.reply <;> simp [finish, writeReply, hr]

@[simp] theorem finish_handed (r : OpResult) (s : State) : (finish r s).handed = s.handed := by
  cases hr : r.reply <;> simp [finish, writeReply, hr]

@[simp] theorem finish_reads (r : OpResult) (s : State) : (finish r s).reads = s.reads := by
  cases hr : r.reply <;> simp [finish, writeReply, hr]

@[simp] theorem finish_session (r : OpResult) (s : State) : (finish r s).session = s.session := by
  cases hr : r.reply <;> simp [finish, writeReply, hr]

@[simp] theorem finish_reports (r : OpResult) (s : State) : (finish r s).reports = s.reports := by
  cases hr : r.reply <;> simp [finish, writeReply, hr]

/-! ### what an operation command, LOAD and NEXT keep -/

@[simp] theorem runOp_recid (op : State → Except BlockFault OpResult) (s : State) : (runOp op s).recid = s.recid := by
  unfold runOp; split <;> (try split) <;> simp

@[simp] theorem runOp_inum (op : State → Except BlockFault OpResult) (s : State) : (runOp op s).inum = s.inum := by
  unfold runOp; split <;> (try split) <;> simp

@[simp] theorem runOp_width (op : State → Except BlockFault OpResult) (s : State) : (runOp op s).width = s.width := by
  unfold runOp; split <;> (try split) <;> simp

@[simp] theorem runOp_lpp (op : State → Except BlockFault OpResult) (s : State) : (runOp op s).lpp = s.lpp := by
  unfold runOp; split <;> (try split) <;> simp

@[simp] theorem runOp_chunk (op : State → Except BlockFault OpResult) (s : State) : (runOp op s).chunk = s.chunk := by
  unfold runOp; split <;> (try split) <;> simp

@[simp] theorem runOp_inBuf (op : State → Except BlockFault OpResult) (s : State) : (runOp op s).inBuf = s.inBuf := by
  unfold runOp; split <;> (try split) <;> simp

@[simp] theorem runOp_cfg (op : State → Except BlockFault OpResult) (s : State) : (runOp op s).cfg = s.cfg := by
  unfold runOp; split <;> (try split) <;> simp

@[simp] theorem runOp_pending (op : State → Except BlockFault OpResult) (s : State) : (runOp op s).pending = s.pending := by
  unfold runOp; split <;> (try split) <;> simp

@[simp] theorem runOp_handed (op : State → Except BlockFault OpResult) (s : State) : (runOp op s).handed = s.handed := by
  unfold runOp; split <;> (try split) <;> simp

@[simp] theorem runOp_reads (op : State → Except BlockFault OpResult) (s : State) : (runOp op s).reads = s.reads := by
  unfold runOp; split <;> (try split) <;> simp

@[simp] theorem runOp_session (op : State → Except BlockFault OpResult) (s : State) : (runOp op s).session = s.session := by
  unfold runOp; split <;> (try split) <;> simp

@[simp] theorem runOp_reports (op : State → Except BlockFault OpResult) (s : State) : (runOp op s).reports = s.reports := by
  unfold runOp; split <;> (try split) <;> simp

@[simp] theorem doLoad_recid (b : List Byte) (s : State) : (doLoad b s).recid = s.recid := by
  unfold doLoad; split <;> (try split) <;> simp

@[simp] theorem doLoad_inum (b : List Byte) (s : State) : (doLoad b s).inum = s.inum := by
  unfold doLoad; split <;> (try split) <;> simp

@[simp] theorem doLoad_width (b : List Byte) (s : State) : (doLoad b s).width = s.width := by
  unfold doLoad; split <;> (try split) <;> simp

@[simp] theorem doLoad_lpp (b : List Byte) (s : State) : (doLoad b s).lpp = s.lpp := by
  unfold doLoad; split <;> (try split) <;> simp

@[simp] theorem doLoad_chunk (b : List Byte) (s : State) : (doLoad b s).chunk = s.chunk := by
  unfold doLoad; split <;> (try split) <;> simp

@[simp] theorem doLoad_rsize (b : List Byte) (s : State) : (doLoad b s).rsize = s.rsize := by
  unfold doLoad; split <;> (try split) <;> simp

@[simp] theorem doLoad_rrecid (b : List Byte) (s : State) : (doLoad b s).rrecid = s.rrecid := by
  unfold doLoad; split <;> (try split) <;> simp

@[simp] theorem doLoad_rclass (b : List Byte) (s : State) : (doLoad b s).rclass = s.rclass := by
  unfold doLoad; split <;> (try split) <;> simp

@[simp] theorem doLoad_rcode (b : List Byte) (s : State) : (doLoad b s).rcode = s.rcode := by
  unfold doLoad; split <;> (try split) <;> simp

@[simp] theorem doLoad_cfg (b : List Byte) (s : State) : (doLoad b s).cfg = s.cfg := by
  unfold doLoad; split <;> (try split) <;> simp

@[simp] theorem doLoad_pending (b : List Byte) (s : State) : (doLoad b s).pending = s.pending := by
  unfold doLoad; split <;> (try split) <;> simp

@[simp] theorem doLoad_handed (b : List Byte) (s : State) : (doLoad b s).handed = s.handed := by
  unfold doLoad; split <;> (try split) <;> simp

@[simp] theorem doLoad_reads (b : List Byte) (s : State) : (doLoad b s).reads = s.reads := by
  unfold doLoad; split <;> (try split) <;> simp

@[simp] theorem doLoad_session (b : List Byte) (s : State) : (doLoad b s).session = s.session := by
  unfold doLoad; split <;> (try split) <;> simp

@[simp] theorem doLoad_reports (b : List Byte) (s : State) : (doLoad b s).reports = s.reports := by
  unfold doLoad; split <;> (try split) <;> simp

@[simp] theorem pullNext_recid (s : State) : (pullNext s).recid = s.recid := by
  unfold pullNext; split <;> (try split) <;> simp

@[simp] theorem pullNext_inum (s : State) : (pullNext s).inum = s.inum := by
  unfold pullNext; split <;> (try split) <;> simp

@[simp] theorem pullNext_width (s : State) : (pullNext s).width = s.width := by
  unfold pullNext; split <;> (try split) <;> simp

@[simp] theorem pullNext_lpp (s : State) : (pullNext s).lpp = s.lpp := by
  unfold pullNext; split <;> (try split) <;> simp

@[simp] theorem pullNext_chunk (s : State) : (pullNext s).chunk = s.chunk := by
  unfold pullNext; split <;> (try split) <;> simp

@[simp] theorem pullNext_inBuf (s : State) : (pullNext s).inBuf = s.inBuf := by
  unfold pullNext; split <;> (try split) <;> simp

@[simp] theorem pullNext_rsize (s : State) : (pullNext s).rsize = s.rsize := by
  unfold pullNext; split <;> (try split) <;> simp

@[simp] theorem pullNext_rrecid (s : State) : (pullNext s).rrecid = s.rrecid := by
  unfold pullNext; split <;> (try split) <;> simp

@[simp] theorem pullNext_rclass (s : State) : (pullNext s).rclass = s.rclass := by
  unfold pullNext; split <;> (try split) <;> simp

@[simp] theorem pullNext_rcode (s : State) : (pullNext s).rcode = s.rcode := by
  unfold pullNext; split <;> (try split) <;> simp

@[simp] theorem pullNext_cfg (s : State) : (pullNext s).cfg = s.cfg := by
  unfold pullNext; split <;> (try split) <;> simp

@[simp] theorem pullNext_pending (s : State) : (pullNext s).pending = s.pending := by
  unfold pullNext; split <;> (try split) <;> simp

@[simp] theorem pullNext_reads (s : State) : (pullNext s).reads = s.reads := by
  unfold pullNext; split <;> (try split) <;> simp

@[simp] theorem pullNext_session (s : State) : (pullNext s).session = s.session := by
  unfold pullNext; split <;> (try split) <;> simp

@[simp] theorem pullNext_reports (s : State) : (pullNext s).reports = s.reports := by
  unfold pullNext; split <;> (try split) <;> simp

theorem finish_without_reply (q : List Datagram) (s : State) :
    finish { outq := q, reply := none } s = produced q s := rfl

theorem finish_with_reply (q : List Datagram) (g : ReplyRegs) (s : State) :
    finish { outq := q, reply := some g } s =
      { s with
        st := .ready, outq := q, outidx := 0, rsize := g.rsize, rrecid := g.rrecid, rclass := g.rclass
        rcode := g.rcode } := rfl

end Sys2Proof.Machine
end

