-- ==== Sys2Proof/Laws/Ops.lean ====
section
/-! SUPPORT. One lemma per shared operation that says once everything the operation can do. -/

namespace Sys2Proof.Machine

/-- Everything an operation command can do (44_control_ops.md R231). -/
theorem runOp_cases (op : State → Except BlockFault OpResult) (s : State) :
    (∃ r, s.st = .idle ∧ op s = .ok r ∧ runOp op s = finish r s)
      ∨ (∃ f, s.st = .idle ∧ op s = .error f
          ∧ runOp op s = faulted (faultCodeOf f) (faultParamOf f) s)
      ∨ (s.st = .ready ∧ runOp op s = faulted 6 0 s)
      ∨ (s.st = .fault ∧ runOp op s = s) := by
  cases hs : s.st with
  | idle =>
    cases ho : op s with
    | ok r => exact .inl ⟨r, rfl, rfl, by simp [runOp, hs, ho]⟩
    | error f =>
      refine .inr (.inl ⟨f, rfl, rfl, ?_⟩)
      simp [runOp, hs, ho, raise_of_not_fault f s (by simp [hs])]
  | ready =>
    refine .inr (.inr (.inl ⟨rfl, ?_⟩))
    simp [runOp, hs, raise_of_not_fault _ s (by simp [hs] : s.st ≠ .fault), faultCodeOf, faultParamOf]
  | fault => exact .inr (.inr (.inr ⟨rfl, by simp [runOp, hs]⟩))

theorem runOp_ok {op : State → Except BlockFault OpResult} {s : State} {r : OpResult}
    (hs : s.st = .idle) (h : op s = .ok r) : runOp op s = finish r s := by
  simp [runOp, hs, h]

theorem runOp_error {op : State → Except BlockFault OpResult} {s : State} {f : BlockFault}
    (hs : s.st = .idle) (h : op s = .error f) :
    runOp op s = faulted (faultCodeOf f) (faultParamOf f) s := by
  simp [runOp, hs, h, raise_of_not_fault f s (by simp [hs])]

theorem runOp_ready {op : State → Except BlockFault OpResult} {s : State} (hs : s.st = .ready) :
    runOp op s = faulted 6 0 s := by
  simp [runOp, hs, raise_of_not_fault _ s (by simp [hs] : s.st ≠ .fault), faultCodeOf, faultParamOf]

theorem runOp_fault {op : State → Except BlockFault OpResult} {s : State} (hs : s.st = .fault) :
    runOp op s = s := by
  simp [runOp, hs]

/-- Everything LOAD can do (44_control_ops.md R237). -/
theorem doLoad_cases (b : List Byte) (s : State) :
    (s.st = .idle ∧ overCapacity s.cfg b.length = false ∧ doLoad b s = { s with inBuf := b })
      ∨ (s.st = .idle ∧ overCapacity s.cfg b.length = true ∧ doLoad b s = faulted 8 0 s)
      ∨ (s.st = .ready ∧ doLoad b s = faulted 6 0 s)
      ∨ (s.st = .fault ∧ doLoad b s = s) := by
  cases hs : s.st with
  | idle =>
    cases ho : overCapacity s.cfg b.length with
    | false => exact .inl ⟨rfl, rfl, by simp [doLoad, hs, ho]⟩
    | true =>
      refine .inr (.inl ⟨rfl, rfl, ?_⟩)
      simp [doLoad, hs, ho, raise_of_not_fault _ s (by simp [hs] : s.st ≠ .fault), faultCodeOf,
        faultParamOf]
  | ready =>
    refine .inr (.inr (.inl ⟨rfl, ?_⟩))
    simp [doLoad, hs, raise_of_not_fault _ s (by simp [hs] : s.st ≠ .fault), faultCodeOf, faultParamOf]
  | fault => exact .inr (.inr (.inr ⟨rfl, by simp [doLoad, hs]⟩))

theorem overCapacity_eq_false_iff (cfg : BlockConfig) (n : Nat) :
    overCapacity cfg n = false ↔ Fits cfg n := by
  cases h : cfg.maxStream <;> simp [overCapacity, Fits, h]

theorem overCapacity_iff (cfg : BlockConfig) (n : Nat) : overCapacity cfg n = true ↔ ¬Fits cfg n := by
  rw [← overCapacity_eq_false_iff, Bool.not_eq_false]

theorem doLoad_fits {b : List Byte} {s : State} (hs : s.st = .idle) (h : Fits s.cfg b.length) :
    doLoad b s = { s with inBuf := b } := by
  simp [doLoad, hs, (overCapacity_eq_false_iff _ _).2 h]

/-- Everything NEXT can do (44_control_ops.md R233). -/
theorem pullNext_cases (s : State) :
    (s.st = .ready ∧ s.outidx < outcnt s
        ∧ pullNext s =
          { s with handed := s.handed ++ [s.outq.getD s.outidx []], outidx := s.outidx + 1 })
      ∨ (s.st = .ready ∧ ¬s.outidx < outcnt s ∧ pullNext s = faulted 6 0 s)
      ∨ (s.st = .idle ∧ pullNext s = faulted 6 0 s)
      ∨ (s.st = .fault ∧ pullNext s = s) := by
  cases hs : s.st with
  | idle =>
    refine .inr (.inr (.inl ⟨rfl, ?_⟩))
    simp [pullNext, hs, raise_of_not_fault _ s (by simp [hs] : s.st ≠ .fault), faultCodeOf, faultParamOf]
  | ready =>
    by_cases hm : s.outidx < outcnt s
    · exact .inl ⟨rfl, hm, by simp [pullNext, hs, hm]⟩
    · refine .inr (.inl ⟨rfl, hm, ?_⟩)
      simp [pullNext, hs, hm, raise_of_not_fault _ s (by simp [hs] : s.st ≠ .fault), faultCodeOf,
        faultParamOf]
  | fault => exact .inr (.inr (.inr ⟨rfl, by simp [pullNext, hs]⟩))

/-- Everything SEEK can do (44_control_ops.md R236). -/
theorem doSeek_cases (v : Word) (s : State) :
    (s.st = .ready ∧ v.toNat ≤ outcnt s ∧ doSeek v s = { s with outidx := v.toNat })
      ∨ (s.st = .ready ∧ outcnt s < v.toNat ∧ doSeek v s = faulted 6 0 s)
      ∨ (s.st = .idle ∧ doSeek v s = faulted 6 0 s)
      ∨ (s.st = .fault ∧ doSeek v s = s) := by
  cases hs : s.st with
  | idle =>
    refine .inr (.inr (.inl ⟨rfl, ?_⟩))
    simp [doSeek, hs, raise_of_not_fault _ s (by simp [hs] : s.st ≠ .fault), faultCodeOf, faultParamOf]
  | ready =>
    by_cases hm : v.toNat ≤ outcnt s
    · exact .inl ⟨rfl, hm, by simp [doSeek, hs, hm]⟩
    · refine .inr (.inl ⟨rfl, by omega, ?_⟩)
      simp [doSeek, hs, (by omega : outcnt s < v.toNat),
        raise_of_not_fault _ s (by simp [hs] : s.st ≠ .fault), faultCodeOf, faultParamOf]
  | fault => exact .inr (.inr (.inr ⟨rfl, by simp [doSeek, hs]⟩))

/-- Everything SET can do (44_control_ops.md R238). -/
theorem doSet_cases (write : State → State) (s : State) :
    (s.st = .idle ∧ doSet write s = write s)
      ∨ (s.st = .ready ∧ doSet write s = faulted 6 0 s)
      ∨ (s.st = .fault ∧ doSet write s = s) := by
  cases hs : s.st with
  | idle => exact .inl ⟨rfl, by simp [doSet, hs]⟩
  | ready =>
    refine .inr (.inl ⟨rfl, ?_⟩)
    simp [doSet, hs, raise_of_not_fault _ s (by simp [hs] : s.st ≠ .fault), faultCodeOf, faultParamOf]
  | fault => exact .inr (.inr ⟨rfl, by simp [doSet, hs]⟩)

/-- Everything one step can do. -/
theorem step_cases (s : State) :
    (s.pending = [] ∧ step s = .next s)
      ∨ (∃ a rest, s.pending = a :: rest ∧ unitOf a = none
          ∧ step s = .next (runPlain a { s with pending := rest }))
      ∨ (∃ a rest u i, s.pending = a :: rest ∧ unitOf a = some u ∧ decode s.cfg u = .ok i
          ∧ step s = exec i { s with pending := rest })
      ∨ (∃ a rest u e, s.pending = a :: rest ∧ unitOf a = some u ∧ decode s.cfg u = .error e
          ∧ step s = .next (runUndecoded u { s with pending := rest })) := by
  cases hp : s.pending with
  | nil => exact .inl ⟨rfl, by simp [step, takeAction, hp]⟩
  | cons a rest =>
    cases hu : unitOf a with
    | none =>
      refine .inr (.inl ⟨a, rest, rfl, hu, ?_⟩)
      simp [step, takeAction, hp, runAction, hu]
    | some u =>
      cases hd : decode s.cfg u with
      | ok i =>
        refine .inr (.inr (.inl ⟨a, rest, u, i, rfl, hu, hd, ?_⟩))
        simp [step, takeAction, hp, runAction, hu, runUnit, hd]
      | error e =>
        refine .inr (.inr (.inr ⟨a, rest, u, e, rfl, hu, hd, ?_⟩))
        simp [step, takeAction, hp, runAction, hu, runUnit, hd]

end Sys2Proof.Machine
end

