-- ==== Sys2Proof/Laws/Parameters.lean ====
section
/-! SUPPORT. Lemmas about the parameters of 00_scope.md R5 and the definitions that rest on them. -/

namespace Sys2Proof

theorem BlockConfig.valid_iff (c : BlockConfig) :
    c.valid = true ↔
      c.layout.valid = true ∧ c.rawHdrBytes = 14 ∧ c.seqHdrBytes = 10 ∧ c.rlePayloadMax ≤ 65531 ∧
        c.seqDgramMax ≤ 65535 ∧ c.inumMax ≤ 65535 ∧ 1 ≤ c.rleLenMax ∧ c.rleLenMax ≤ 2047 := by
  simp only [BlockConfig.valid, Bool.and_eq_true, decide_eq_true_eq, and_assoc]

/-- R5's values agree with the wire formats. -/
theorem Config.default_valid : Config.default.valid = true := by decide

/-- A chunk's data and the header are within the datagram's limit. -/
theorem chunkDataMax_add_le {c : BlockConfig} {n : Nat} (hpos : 1 ≤ n) (h : n ≤ chunkDataMax c) :
    c.seqHdrBytes + n ≤ c.seqDgramMax := by
  simp only [chunkDataMax] at h
  omega

namespace Machine

/-- A parameter register holds a value within its width as it is written (10_state.md R22). -/
theorem fitParam_eq {c : BlockConfig} {v : Word} (h : v.toNat < 2 ^ c.paramBits) : fitParam c v = v := by
  simp [fitParam, h]

theorem fitParam_of_32 {c : BlockConfig} (h : c.paramBits = 32) (v : Word) : fitParam c v = v :=
  fitParam_eq (by rw [h]; exact v.isLt)

@[simp] theorem fitParam_default (v : Word) : fitParam Config.default v = v := fitParam_of_32 rfl v

/-- What a parameter register holds is within its width. -/
theorem fitParam_lt (c : BlockConfig) (v : Word) : (fitParam c v).toNat < 2 ^ c.paramBits := by
  unfold fitParam
  split
  · assumption
  · rw [BitVec.toNat_ofNat]
    exact lt_of_le_of_lt (Nat.mod_le _ _) (Nat.mod_lt _ (Nat.two_pow_pos _))

end Machine

end Sys2Proof
end

