-- ==== Sys2Proof/Laws/PerInstr.lean ====
section
/-! SUPPORT. One family of lemmas over all rows of the opcode table: what unit the encoder writes for a
well-formed instruction, and how long it is. -/

namespace Sys2Proof.Laws

/-- A command is a value of `CMD` with the bits above the low byte zero (30_encoding.md R90); a wire unit has its
own format's length: the fixed fields and what follows them, within the parameters' limits (R94 to R102). -/
def EncodedForm.Statement (i : Instr) : Prop :=
  ∀ c : BlockConfig, c.valid = true → i.wf c = true →
    match i, encode c i with
    | .frameRecord _ payload, .wire f b => f = .frameRecord ∧ b.length = 4 + payload.length ∧ b.length ≤ 65535
    | .frameAck _, .wire f b => f = .frameAck ∧ b.length = 6
    | .descRle _ _ _, .wire f b => f = .desc16 ∧ b.length = 2
    | .descRaw _ _, .wire f b => f = .desc16 ∧ b.length = 2
    | .pktImgRaw _ _ _ payload, .wire f b => f = .pktImgRaw ∧ b.length = 14 + payload.length ∧ b.length ≤ c.rawDgramMax
    | .pktImgRle _ _ _ row, .wire f b => f = .pktImgRle ∧ b.length = 12 + row.length ∧ b.length ≤ 4 + c.rlePayloadMax
    | .chunkSeq _ _ data, .wire f b => f = .chunkSeq ∧ b.length = 10 + data.length ∧ b.length ≤ c.seqDgramMax
    | _, .cmd w => w.toNat < 256
    | _, .wire _ _ => False

theorem EncodedForm.nop : EncodedForm.Statement .nop := fun _ _ _ => by simp [encode]

theorem EncodedForm.recEnc : EncodedForm.Statement .recEnc := fun _ _ _ => by simp [encode]

theorem EncodedForm.recDec : EncodedForm.Statement .recDec := fun _ _ _ => by simp [encode]

theorem EncodedForm.recCls : EncodedForm.Statement .recCls := fun _ _ _ => by simp [encode]

theorem EncodedForm.rleEncRow : EncodedForm.Statement .rleEncRow := fun _ _ _ => by simp [encode]

theorem EncodedForm.rleDecRow : EncodedForm.Statement .rleDecRow := fun _ _ _ => by simp [encode]

theorem EncodedForm.rleEncImg : EncodedForm.Statement .rleEncImg := fun _ _ _ => by simp [encode]

theorem EncodedForm.imgPktRaw : EncodedForm.Statement .imgPktRaw := fun _ _ _ => by simp [encode]

theorem EncodedForm.imgPktRle : EncodedForm.Statement .imgPktRle := fun _ _ _ => by simp [encode]

theorem EncodedForm.seqPkt : EncodedForm.Statement .seqPkt := fun _ _ _ => by simp [encode]

theorem EncodedForm.next : EncodedForm.Statement .next := fun _ _ _ => by simp [encode]

theorem EncodedForm.clr : EncodedForm.Statement .clr := fun _ _ _ => by simp [encode]

theorem EncodedForm.frameRecord (recordId : BitVec 16) (payload : List Byte) :
    EncodedForm.Statement (.frameRecord recordId payload) := fun c hv h => by
  have hl := of_decide_eq_true h
  simp only [encode, length_recordFrame, true_and]
  omega

theorem EncodedForm.frameAck (code : BitVec 16) : EncodedForm.Statement (.frameAck code) := fun _ _ _ => by
  simp [encode, ackFrame]

theorem EncodedForm.descRle (bit : Bool) (transitionPos : BitVec 3) (runLengthBytes : BitVec 11) :
    EncodedForm.Statement (.descRle bit transitionPos runLengthBytes) := fun _ _ _ => by
  simp [encode, descBytes]

theorem EncodedForm.descRaw (reserved : BitVec 7) (byteValue : Byte) :
    EncodedForm.Statement (.descRaw reserved byteValue) := fun _ _ _ => by
  simp [encode, descBytes]

theorem EncodedForm.pktImgRaw (sequenceIndex inum : BitVec 16) (lineOffset : BitVec 48) (payload : List Byte) :
    EncodedForm.Statement (.pktImgRaw sequenceIndex inum lineOffset payload) := fun c hv h => by
  simp only [Instr.wf, wfPktImgRaw, Bool.and_eq_true, decide_eq_true_eq] at h
  have hl := h.1.2
  have hp := (c.valid_iff.1 hv).2.1
  simp only [encode, imgRawPacket, List.length_append, length_be32, length_be16, length_be48, true_and]
  omega

theorem EncodedForm.pktImgRle (seqNo inum : BitVec 16) (lineOffset : BitVec 32) (row : List Byte) :
    EncodedForm.Statement (.pktImgRle seqNo inum lineOffset row) := fun c hv h => by
  simp only [Instr.wf, wfPktImgRle, Bool.and_eq_true, decide_eq_true_eq] at h
  have hl := h.2
  simp only [encode, imgRlePayload, length_recordFrame, List.length_append, length_be32, length_be16, true_and]
  omega

theorem EncodedForm.chunkSeq (chunkIndex totalChunks : BitVec 16) (data : List Byte) :
    EncodedForm.Statement (.chunkSeq chunkIndex totalChunks data) := fun c hv h => by
  simp only [Instr.wf, wfChunkSeq, Bool.and_eq_true, decide_eq_true_eq] at h
  have hl := chunkDataMax_add_le h.1.2 h.2
  have hp := (c.valid_iff.1 hv).2.2.1
  simp only [encode, chunkDatagram, List.length_append, length_be16, true_and]
  omega

end Sys2Proof.Laws
end

