-- ==== Sys2Proof/Laws/Session.lean ====
section
/-! SUPPORT. One lemma per shared operation of the transfer session that says what it does. -/

namespace Sys2Proof.Machine

theorem retryCap_of_some (c : BlockConfig) (n : Nat) (h : c.retryCap = some n) : retryCap c = n := by
  simp [retryCap, h]

theorem retryCap_of_none (c : BlockConfig) (h : c.retryCap = none) : retryCap c = Config.retryCapRaw := by
  simp [retryCap, h]

theorem recordFrame_eq_frameOf (c : BlockConfig) (r : CommandRecord) :
    recordFrame (fitParam c r.recordId).toNat r.payload = frameOf c r := rfl

/-- A step whose action is a session event is the session's turn. -/
theorem step_of_session {s : State} {e : SessionEvent} {rest : List HostAction}
    (hp : s.pending = .session e :: rest) :
    step s = .next (sessionTurn e { s with pending := rest }) := by
  simp [step, takeAction, hp, runAction, unitOf, runPlain]

/-- An event at the session that exists. -/
theorem sessionTurn_of_some {s : State} {ss : Session} (e : SessionEvent) (hs : s.session = some ss) :
    sessionTurn e s = sessionEvent e ss s := by
  simp [sessionTurn, hs]

/-- The end of a session, whatever it ended as. -/
theorem endSession_ends (was ended : Session) (s : State) :
    SessionEnds s (endSession was ended s) was.phase ended :=
  ⟨rfl, rfl, rfl, rfl, rfl, rfl, rfl⟩

theorem failSession_ends (f : SessionFailure) (ss : Session) (s : State) :
    SessionEnds s (failSession f ss s) ss.phase
      { ss with phase := .failed, failure := some f, inFlight := false } :=
  endSession_ends _ _ _

theorem completeSession_ends (ss : Session) (s : State) :
    SessionEnds s (completeSession ss s) ss.phase { ss with phase := .complete, inFlight := false } :=
  endSession_ends _ _ _

/-- The state a record's LOAD and SET leave in IDLE. -/
def withRecord (r : CommandRecord) (s : State) : State :=
  { s with recid := fitParam s.cfg r.recordId, inBuf := r.payload }

/-- SET and LOAD of a record in IDLE, then REC.ENC. -/
theorem encodeRecord_of_idle {r : CommandRecord} {s : State} (hs : s.st = .idle) :
    encodeRecord r s = runRecEnc (doLoad r.payload { s with recid := fitParam s.cfg r.recordId }) := by
  simp only [encodeRecord, doSet, hs]

/-- REC.ENC's tests passed (40_record_codec.md R131, R132). -/
theorem recEncOp_ok {s : State} (hid : s.recid.toNat ≤ 65535) (hlen : s.inBuf.length ≤ 65531) :
    recEncOp s = .ok { outq := [recordFrame s.recid.toNat s.inBuf], reply := none } := by
  simp only [recEncOp, wholeInput]
  rw [if_neg (by omega), if_neg (by omega)]

/-- REC.ENC's tests failed (40_record_codec.md R132). -/
theorem recEncOp_error {s : State} (h : ¬(s.recid.toNat ≤ 65535 ∧ s.inBuf.length ≤ 65531)) :
    ∃ f, recEncOp s = .error f := by
  simp only [recEncOp, wholeInput]
  split_ifs with hid hlen
  · exact ⟨_, rfl⟩
  · exact ⟨_, rfl⟩
  · exact absurd ⟨by omega, by omega⟩ h

/-- REC.ENC of a record in IDLE, where it has a frame. -/
theorem encodeRecord_of_encodable {r : CommandRecord} {s : State} (hs : s.st = .idle)
    (h : Encodable s.cfg r) : encodeRecord r s = produced [frameOf s.cfg r] (withRecord r s) := by
  obtain ⟨hid, hlen, hfit⟩ := h
  have hl : doLoad r.payload { s with recid := fitParam s.cfg r.recordId } = withRecord r s := doLoad_fits hs hfit
  rw [encodeRecord_of_idle hs, hl]
  exact runOp_ok (show (withRecord r s).st = .idle from hs) (recEncOp_ok hid hlen)

/-- REC.ENC of a record in IDLE, where it has none: a block fault. -/
theorem encodeRecord_of_not_encodable {r : CommandRecord} {s : State} (hs : s.st = .idle)
    (h : ¬Encodable s.cfg r) : (encodeRecord r s).st = .fault := by
  rw [encodeRecord_of_idle hs]
  by_cases hfit : Fits s.cfg r.payload.length
  · have hl : doLoad r.payload { s with recid := fitParam s.cfg r.recordId } = withRecord r s := doLoad_fits hs hfit
    obtain ⟨f, hf⟩ := recEncOp_error (s := withRecord r s) fun hr => h ⟨hr.1, hr.2, hfit⟩
    rw [hl, runRecEnc, runOp_error (show (withRecord r s).st = .idle from hs) hf, faulted_st]
  · have hl : (doLoad r.payload { s with recid := fitParam s.cfg r.recordId }).st = .fault := by
      simp [doLoad, hs, (overCapacity_iff _ _).2 hfit]
    rw [runRecEnc, runOp_fault hl, hl]

/-- The state a frame's making leaves: the record in `RECID` and `IN`, the frame handed over, CLR issued. -/
def afterFrame (r : CommandRecord) (s : State) : State :=
  { clear (withRecord r s) with handed := s.handed ++ [frameOf s.cfg r] }

/-- A frame made goes on with it. -/
theorem makeFrame_of_encodable {r : CommandRecord} {s : State} (ss : Session)
    (go : Datagram → State → State) (hs : s.st = .idle) (h : Encodable s.cfg r) :
    makeFrame r ss go s = go (frameOf s.cfg r) (afterFrame r s) := by
  simp only [makeFrame, encodeRecord_of_encodable hs h]
  rfl

/-- A frame that cannot be made fails the session. -/
theorem makeFrame_of_not_encodable {r : CommandRecord} {s : State} (ss : Session)
    (go : Datagram → State → State) (hs : s.st = .idle) (h : ¬Encodable s.cfg r) :
    makeFrame r ss go s = failSession .transportError ss (encodeRecord r s) := by
  simp [makeFrame, encodeRecord_of_not_encodable hs h]

/-- LOAD of more than the capacity admits. -/
theorem doLoad_overflow {b : List Byte} {s : State} (hs : s.st = .idle) (h : ¬Fits s.cfg b.length) :
    doLoad b s = faulted 8 0 s := by
  rcases doLoad_cases b s with ⟨_, hf, _⟩ | ⟨_, _, e⟩ | ⟨hr, _⟩ | ⟨hr, _⟩
  · exact absurd ((overCapacity_eq_false_iff _ _).1 hf) h
  · exact e
  · simp [hs] at hr
  · simp [hs] at hr

/-- The repair's SEEK: from READY, to a datagram of the queue or its end, it begins the repair; else the session fails. -/
theorem beginRepair_cases (g : Nat) (ss : Session) (s : State) (hg : g < 2 ^ 32) :
    (s.st = .ready ∧ g ≤ outcnt s ∧
        beginRepair g ss s =
          withSession { ss with phase := .repairing, retries := ss.retries + 1, inFlight := false }
            { s with outidx := g })
      ∨ ((s.st = .ready → outcnt s < g) ∧
        ∃ t, (t = s ∨ t = faulted 6 0 s) ∧
          beginRepair g ss s =
            failSession .transportError
              { ss with phase := .repairing, retries := ss.retries + 1, inFlight := false } t) := by
  have e : (BitVec.ofNat 32 g).toNat = g := by simp; omega
  rcases doSeek_cases (BitVec.ofNat 32 g) s with ⟨hs, hm, h⟩ | ⟨hs, hm, h⟩ | ⟨hs, h⟩ | ⟨hs, h⟩
  · exact .inl ⟨hs, e ▸ hm, by simp [beginRepair, h, hs, e]⟩
  · exact .inr ⟨fun _ => e ▸ hm, _, .inr rfl, by simp [beginRepair, h]⟩
  · exact .inr ⟨by simp [hs], _, .inr rfl, by simp [beginRepair, h]⟩
  · exact .inr ⟨by simp [hs], _, .inl rfl, by simp [beginRepair, h, hs]⟩

/-- A priming reply that the buffer takes is classified. -/
theorem primingReply_of_fits {b : Datagram} {s : State} (ss : Session) (hs : s.st = .idle)
    (h : Fits s.cfg b.length) :
    primingReply b ss s =
      if (runRecCls { s with inBuf := b }).st = .ready ∧ (runRecCls { s with inBuf := b }).rclass = classOk then
        primingOk ss (clear (runRecCls { s with inBuf := b }))
      else failSession (.primingFailed b) ss (runRecCls { s with inBuf := b }) := by
  have hl : ({ s with inBuf := b } : State).st = .idle := hs
  rw [primingReply, doLoad_fits hs h]
  dsimp only
  split
  · rfl
  · simp_all
  · simp_all

/-- A priming reply that the buffer does not take. -/
theorem primingReply_of_not_fits {b : Datagram} {s : State} (ss : Session) (hs : s.st = .idle)
    (h : ¬Fits s.cfg b.length) :
    primingReply b ss s = failSession .transportError ss (faulted 8 0 s) := by
  rw [primingReply, doLoad_overflow hs h]
  rfl

end Sys2Proof.Machine
end

