-- ==== Sys2Proof/Tests/Slice0.lean ====
section
/-! SUPPORT. Tests. Expected values are those of spec/95_test_vectors.md (the vector's id stands with each) or
words written out from spec/30_encoding.md; the witnesses at the end meet the hypotheses of the statements. -/

namespace Sys2Proof.Tests

open Sys2Proof Sys2Proof.Machine

/-- The block in IDLE with this input. -/
def idleWith (b : List Byte) : State := { State.reset with inBuf := b }

/-- The block in READY with this queue and cursor. -/
def readyWith (q : List Datagram) (k : Nat) : State :=
  { State.reset with st := .ready, outq := q, outidx := k }

/-- The block in FAULT with InvalidParameter, inum. -/
def inFault : State := { State.reset with st := .fault, faultCode := 1, faultParam := 1 }

/-- One field of the state after an instruction. -/
def after {α : Type} (i : Instr) (s : State) (f : State → α) : Option α := (nextOf (exec i s)).map f

/-- One field of the state after one step with one host action pending. -/
def afterAction {α : Type} (a : HostAction) (s : State) (f : State → α) : Option α :=
  (nextOf (step { s with pending := [a] })).map f

/-! ### WellFormed: one ill-formed term for each check -/

theorem test_wf_frameRecord_tooLong : wfFrameRecord (List.replicate 65532 0) = false :=
  decide_eq_false (by rw [List.length_replicate]; omega)

theorem test_wf_pktImgRaw_empty :
    (Instr.pktImgRaw 0 7 0 []).wf Config.default = false := by decide

theorem test_wf_pktImgRaw_firstOffset :
    (Instr.pktImgRaw 0 7 2 [0x11]).wf Config.default = false := by decide

theorem test_wf_pktImgRaw_offset :
    (Instr.pktImgRaw 2 7 3 [0x11]).wf Config.default = false := by decide

theorem test_wf_pktImgRaw_offsetZero :
    (Instr.pktImgRaw 2 7 0 [0x11]).wf Config.default = false := by decide

theorem test_wf_pktImgRaw_offsetWide :
    (Instr.pktImgRaw 1 7 0x100000000 [0x11]).wf Config.default = false := by decide

theorem test_wf_pktImgRaw_tooLong : wfPktImgRaw Config.default 0 0 (List.replicate 1487 0) = false := by
  have h : decide (Config.default.rawHdrBytes + (List.replicate 1487 (0 : Byte)).length ≤
      Config.default.rawDgramMax) = false :=
    decide_eq_false (by rw [List.length_replicate]; decide)
  rw [wfPktImgRaw, h, Bool.and_false, Bool.false_and]

theorem test_wf_pktImgRle_seqNo :
    (Instr.pktImgRle 1 7 1 [0x80, 0x01]).wf Config.default = false := by decide

theorem test_wf_pktImgRle_empty :
    (Instr.pktImgRle 1 7 0 []).wf Config.default = false := by decide

theorem test_wf_pktImgRle_odd :
    (Instr.pktImgRle 1 7 0 [0x80, 0x01, 0x00]).wf Config.default = false := by decide

theorem test_wf_pktImgRle_tooLong : wfPktImgRle Config.default 1 0 (List.replicate 8950 0) = false := by
  have h : decide (8 + (List.replicate 8950 (0 : Byte)).length ≤ Config.default.rlePayloadMax) = false :=
    decide_eq_false (by rw [List.length_replicate]; decide)
  rw [wfPktImgRle, h, Bool.and_false]

theorem test_wf_chunkSeq_index :
    (Instr.chunkSeq 0 3 [0x01]).wf Config.default = false := by decide

theorem test_wf_chunkSeq_total :
    (Instr.chunkSeq 4 3 [0x01]).wf Config.default = false := by decide

theorem test_wf_chunkSeq_empty :
    (Instr.chunkSeq 1 3 []).wf Config.default = false := by decide

theorem test_wf_chunkSeq_tooLong : wfChunkSeq Config.default 1 1 (List.replicate 1489 0) = false := by
  have h : decide ((List.replicate 1489 (0 : Byte)).length ≤ chunkDataMax Config.default) = false :=
    decide_eq_false (by rw [List.length_replicate]; decide)
  rw [wfChunkSeq, h, Bool.and_false]

/-- The largest legal units of V-REC-4, V-IMG-7, V-RLEPKT-3 and R212. -/
theorem test_wf_largest :
    wfFrameRecord (List.replicate 65531 0) = true ∧
      wfPktImgRaw Config.default 0 0 (List.replicate 1486 0) = true ∧
      wfPktImgRle Config.default 1 0 (List.replicate 8948 0) = true ∧
      wfChunkSeq Config.default 1 1 (List.replicate 1488 0) = true := by
  simp only [wfFrameRecord, wfPktImgRaw, wfPktImgRle, wfChunkSeq, List.length_replicate]
  decide

/-- A 16-bit field behind two bytes. -/
theorem rd16_second (a b : Byte) (l : List Byte) : rd16 (a :: b :: l) 2 = rd16 l 0 := rfl

/-! ### Decoding: every row's word written out -/

theorem test_decode_nop : decodeTableWord 8 0b00000000 = some .nop := by decide
theorem test_decode_recEnc : decodeTableWord 8 0b00000001 = some .recEnc := by decide
theorem test_decode_recDec : decodeTableWord 8 0b00000010 = some .recDec := by decide
theorem test_decode_recCls : decodeTableWord 8 0b00000011 = some .recCls := by decide
theorem test_decode_rleEncRow : decodeTableWord 8 0b00000100 = some .rleEncRow := by decide
theorem test_decode_rleDecRow : decodeTableWord 8 0b00000101 = some .rleDecRow := by decide
theorem test_decode_rleEncImg : decodeTableWord 8 0b00000110 = some .rleEncImg := by decide
theorem test_decode_imgPktRaw : decodeTableWord 8 0b00001000 = some .imgPktRaw := by decide
theorem test_decode_imgPktRle : decodeTableWord 8 0b00011000 = some .imgPktRle := by decide
theorem test_decode_seqPkt : decodeTableWord 8 0b00001001 = some .seqPkt := by decide
theorem test_decode_next : decodeTableWord 8 0b00001010 = some .next := by decide
theorem test_decode_clr : decodeTableWord 8 0b00001011 = some .clr := by decide

/-- V-CTL-1: words that are no command. -/
theorem test_decode_illegal :
    ([0x07, 0x0C, 0x0F, 0x10, 0x11, 0x19, 0x20, 0x80, 0x100, 0xFFFFFFFF] : List Word).all
      (fun w => (decodeCmd w).toOption.isNone) = true := by decide

/-- V-REC-1. -/
theorem test_decode_frameRecord :
    decode Config.default (.wire .frameRecord [0x00, 0x06, 0x00, 0x65, 0x00, 0x10]) =
      .ok (.frameRecord 0x65 [0x00, 0x10]) := by decide

/-- V-REC-12: a trailing byte. -/
theorem test_decode_frameRecord_trailing :
    decode Config.default (.wire .frameRecord [0x00, 0x05, 0x01, 0xF5, 0x27, 0x10]) =
      .error .sizeMismatch := by decide

/-- S1. -/
theorem test_decode_frameAck : decodeTableWord 48 0x000601F52710 = some (.frameAck 0x2710) := by decide

/-- V-RLD-5: tag 1, bit 1, transitionPos 101, length 2. -/
theorem test_decode_descRle : decodeTableWord 16 0b1110100000000010 = some (.descRle true 5 2) := by decide

/-- V-RLD-6: tag 0, reserved 1111111, value A5. -/
theorem test_decode_descRaw : decodeTableWord 16 0b0111111110100101 = some (.descRaw 0x7F 0xA5) := by decide

/-- V-IMG-1, the second packet; the tag bytes are symbolic. -/
theorem test_decode_pktImgRaw :
    decode Config.default (.wire .pktImgRaw (be32 Config.imgRawTag.toNat ++
        [0x00, 0x01, 0x00, 0x07, 0x00, 0x00, 0x00, 0x00, 0x00, 0x02, 0x31, 0x32, 0x41, 0x42])) =
      .ok (.pktImgRaw 1 7 2 [0x31, 0x32, 0x41, 0x42]) := by
  have ht : slice (be32 Config.imgRawTag.toNat ++
        [0x00, 0x01, 0x00, 0x07, 0x00, 0x00, 0x00, 0x00, 0x00, 0x02, 0x31, 0x32, 0x41, 0x42]) 0 4 =
      be32 Config.imgRawTag.toNat := by simp [slice, be32_eq]
  rw [decode, decodeWire, decodeFields, decodePktImgRaw, if_neg (by simp), ht, if_neg (by simp)]
  rfl

/-- V-RLEPKT-1, the second packet; the record id's bytes are symbolic. -/
theorem test_decode_pktImgRle :
    decode Config.default (.wire .pktImgRle ([0x00, 0x12] ++ be16 Config.imgRleRecid.toNat ++
        [0x00, 0x02, 0x01, 0x02, 0x00, 0x00, 0x00, 0x01, 0xC0, 0x02, 0x00, 0x0F, 0x80, 0x01])) =
      .ok (.pktImgRle 2 0x0102 1 [0xC0, 0x02, 0x00, 0x0F, 0x80, 0x01]) := by
  have ht : rd16 ([0x00, 0x12] ++ be16 Config.imgRleRecid.toNat ++
      [0x00, 0x02, 0x01, 0x02, 0x00, 0x00, 0x00, 0x01, 0xC0, 0x02, 0x00, 0x0F, 0x80, 0x01]) 2 =
      Config.imgRleRecid.toNat := by
    rw [List.append_assoc, List.cons_append, List.cons_append, List.nil_append, rd16_second]
    exact rd16_be16_zero Config.imgRleRecid.isLt _
  rw [decode, decodeWire, decodeFields, decodePktImgRle, if_neg (by simp), if_neg (by simp [rd16]), ht,
    if_neg (by simp)]
  decide

/-- V-SEQ-1, the last chunk; the tag's bytes are symbolic. -/
theorem test_decode_chunkSeq :
    decode Config.default (.wire .chunkSeq ([0x00, 0x0E] ++ be16 Config.seqTag.toNat ++
        [0x00, 0x03, 0x00, 0x03, 0x00, 0x04, 0x11, 0x12, 0x13, 0x14])) =
      .ok (.chunkSeq 3 3 [0x11, 0x12, 0x13, 0x14]) := by
  have ht : rd16 ([0x00, 0x0E] ++ be16 Config.seqTag.toNat ++
      [0x00, 0x03, 0x00, 0x03, 0x00, 0x04, 0x11, 0x12, 0x13, 0x14]) 2 = Config.seqTag.toNat := by
    rw [List.append_assoc, List.cons_append, List.cons_append, List.nil_append, rd16_second]
    exact rd16_be16_zero Config.seqTag.isLt _
  rw [decode, decodeWire, decodeFields, decodeChunkSeq, if_neg (by simp), if_neg (by simp [rd16]), ht,
    if_neg (by simp), if_neg (by simp [rd16, be16_eq])]
  decide

/-! ### Meanings -/

/-- V-CTL-8: NOP in FAULT. -/
theorem test_nop : after .nop inFault (fun t => decide (t = inFault)) = some true := by decide

/-- V-REC-1. -/
theorem test_recEnc :
    after .recEnc { idleWith [0x00, 0x10] with recid := 0x65 } (·.outq) =
      some [[0x00, 0x06, 0x00, 0x65, 0x00, 0x10]] := by decide

/-- V-REC-6. -/
theorem test_recEnc_id : after .recEnc { idleWith [] with recid := 65536 } faultWord = some 0x0701 := by decide

/-- V-REC-8. -/
theorem test_recDec :
    after .recDec (idleWith [0x00, 0x06, 0x01, 0xF5, 0x27, 0x10])
        (fun t => ([t.rsize, t.rrecid, t.rclass, t.rcode], t.outq)) =
      some ([6, 0x01F5, 0, 0], [[0x27, 0x10]]) := by decide

/-- V-REC-11. -/
theorem test_recDec_short : after .recDec (idleWith [0x00, 0x07, 0x01, 0xF5, 0x27, 0x10]) faultWord =
    some 0x0002 := by decide

/-- V-REC-15. -/
theorem test_recCls :
    after .recCls (idleWith [0x00, 0x06, 0x01, 0xF5, 0x27, 0x10])
        (fun t => ([t.rsize, t.rrecid, t.rclass, t.rcode], t.outq)) =
      some ([6, 0x01F5, 2, 0x2710], []) := by decide

/-- V-REC-18. -/
theorem test_recCls_data :
    after .recCls (idleWith [0x00, 0x08, 0x00, 0x70, 0x00, 0x00, 0x04, 0x00])
        (fun t => ([t.rsize, t.rrecid, t.rclass, t.rcode], t.outq)) =
      some ([8, 0x70, 3, 0], [[0x00, 0x08, 0x00, 0x70, 0x00, 0x00, 0x04, 0x00]]) := by decide

/-- V-RLE-4. -/
theorem test_rleEncRow :
    after .rleEncRow { idleWith [0x00, 0x00, 0x0F, 0xFF, 0xFF, 0xF0, 0xAA, 0x00] with width := 64 } (·.outq) =
      some [[0x80, 0x02, 0x00, 0x0F, 0xC0, 0x02, 0x00, 0xF0, 0x00, 0xAA, 0x80, 0x01]] := by decide

/-- V-RLE-8. -/
theorem test_rleEncRow_mixed :
    after .rleEncRow { idleWith [0x7F, 0xFF, 0xFF] with width := 24 } (·.outq) =
      some [[0x00, 0x7F, 0xC0, 0x02]] := by decide

/-- V-RLD-9. -/
theorem test_rleDecRow :
    after .rleDecRow (idleWith [0x80, 0x02, 0x00, 0x0F, 0xC0, 0x02, 0x00, 0xF0, 0x00, 0xAA, 0x80, 0x01]) (·.outq) =
      some [[0x00, 0x00, 0x0F, 0xFF, 0xFF, 0xF0, 0xAA, 0x00]] := by decide

/-- V-RLD-5 under the policy `refuse`. -/
theorem test_rleDecRow_refuse :
    after .rleDecRow { idleWith [0xE8, 0x02] with cfg := { Config.default with tpPolicy := .refuse } } faultWord =
      some 0x0007 := by decide

/-- V-RLI-1. -/
theorem test_rleEncImg :
    after .rleEncImg { idleWith [0x00, 0x00, 0x00, 0x00, 0xFF, 0xFF, 0x0F, 0x00] with width := 32 } (·.outq) =
      some [[0x80, 0x04], [0xC0, 0x02, 0x00, 0x0F, 0x80, 0x01]] := by decide

/-- V-RLI-3. -/
theorem test_rleEncImg_length :
    after .rleEncImg { idleWith (List.replicate 7 0) with width := 32 } faultWord = some 0x0301 := by decide

/-- V-IMG-1, with the tag bytes left out. -/
theorem test_imgPktRaw :
    after .imgPktRaw
        { idleWith [0x11, 0x12, 0x21, 0x22, 0x31, 0x32, 0x41, 0x42] with inum := 7, width := 16, lpp := 2 }
        (fun t => t.outq.map (List.drop 4)) =
      some [[0x00, 0x00, 0x00, 0x07, 0x00, 0x00, 0x00, 0x00, 0x00, 0x00, 0x11, 0x12, 0x21, 0x22],
        [0x00, 0x01, 0x00, 0x07, 0x00, 0x00, 0x00, 0x00, 0x00, 0x02, 0x31, 0x32, 0x41, 0x42]] := by decide

/-- V-IMG-11. -/
theorem test_imgPktRaw_multiple :
    after .imgPktRaw { idleWith (List.replicate 8 0) with width := 16, lpp := 3 } faultWord = some 0x0401 := by
  decide

/-- V-RLEPKT-1, with the record id left out. -/
theorem test_imgPktRle :
    after .imgPktRle { idleWith [0x00, 0x00, 0x00, 0x00, 0xFF, 0xFF, 0x0F, 0x00] with inum := 0x0102, width := 32 }
        (fun t => t.outq.map fun d => d.take 2 ++ d.drop 4) =
      some [[0x00, 0x0E, 0x00, 0x01, 0x01, 0x02, 0x00, 0x00, 0x00, 0x00, 0x80, 0x04],
        [0x00, 0x12, 0x00, 0x02, 0x01, 0x02, 0x00, 0x00, 0x00, 0x01, 0xC0, 0x02, 0x00, 0x0F, 0x80, 0x01]] := by
  decide

/-- V-SEQ-1, with the tag left out. -/
theorem test_seqPkt :
    after .seqPkt { idleWith ((List.range 20).map fun k => BitVec.ofNat 8 (k + 1)) with chunk := 8 }
        (fun t => t.outq.map fun d => d.take 2 ++ d.drop 4) =
      some [[0x00, 0x12, 0x00, 0x01, 0x00, 0x03, 0x00, 0x08, 0x01, 0x02, 0x03, 0x04, 0x05, 0x06, 0x07, 0x08],
        [0x00, 0x12, 0x00, 0x02, 0x00, 0x03, 0x00, 0x08, 0x09, 0x0A, 0x0B, 0x0C, 0x0D, 0x0E, 0x0F, 0x10],
        [0x00, 0x0E, 0x00, 0x03, 0x00, 0x03, 0x00, 0x04, 0x11, 0x12, 0x13, 0x14]] := by decide

/-- V-SEQ-2: 1496 is refused. -/
theorem test_seqPkt_size : after .seqPkt { idleWith [] with chunk := 1496 } faultWord = some 0x0003 := by decide

/-- 44_control_ops.md R233. -/
theorem test_next :
    after .next (readyWith [[0x01], [0x02]] 1) (fun t => (t.handed, t.outidx, statusWord t)) =
      some ([[0x02]], 2, 1) := by decide

/-- V-CTL-4. -/
theorem test_next_end :
    after .next (readyWith [[0x01]] 1) (fun t => (faultWord t, t.outq)) = some (0x0006, []) := by decide

/-- V-CTL-9. -/
theorem test_clr : after .clr inFault (fun t => (statusWord t, faultWord t)) = some (0, 0) := by decide

/-- FRAME.RECORD presented: V-REC-22's frame. -/
theorem test_frameRecord :
    after (.frameRecord 0x1234 [0xDE, 0xAD, 0xBE, 0xEF]) State.reset (fun t => (t.inBuf, t.rrecid, t.outq)) =
      some ([0x00, 0x08, 0x12, 0x34, 0xDE, 0xAD, 0xBE, 0xEF], 0x1234, [[0xDE, 0xAD, 0xBE, 0xEF]]) := by decide

/-- FRAME.ACK presented: S1. -/
theorem test_frameAck :
    after (.frameAck 0x2710) State.reset (fun t => (t.inBuf, t.rclass, t.rcode)) =
      some ([0x00, 0x06, 0x01, 0xF5, 0x27, 0x10], 2, 0x2710) := by decide

/-- DESC.RLE presented: V-RLD-5. -/
theorem test_descRle :
    after (.descRle true 5 2) State.reset (fun t => (t.inBuf, t.outq)) =
      some ([0xE8, 0x02], [[0xFF, 0xFF]]) := by decide

/-- DESC.RAW presented: V-RLD-6. -/
theorem test_descRaw :
    after (.descRaw 0x7F 0xA5) State.reset (fun t => (t.inBuf, t.outq)) = some ([0x7F, 0xA5], [[0xA5]]) := by
  decide

/-- PKT.IMGRAW presented: V-IMG-3, with the tag bytes left out. -/
theorem test_pktImgRaw :
    after (.pktImgRaw 0 0xFFFF 0 [0xAA]) State.reset (fun t => (t.st, t.inBuf.drop 4)) =
      some (.idle, [0x00, 0x00, 0xFF, 0xFF, 0x00, 0x00, 0x00, 0x00, 0x00, 0x00, 0xAA]) := by decide

/-- PKT.IMGRLE presented: V-RLEPKT-1, decoded as a Record frame. -/
theorem test_pktImgRle :
    after (.pktImgRle 1 0x0102 0 [0x80, 0x04]) State.reset (fun t => (t.rsize, t.outq)) =
      some (14, [[0x00, 0x01, 0x01, 0x02, 0x00, 0x00, 0x00, 0x00, 0x80, 0x04]]) := by decide

/-- CHUNK.SEQ presented: V-SEQ-11. -/
theorem test_chunkSeq :
    after (.chunkSeq 3 3 [0x11, 0x12, 0x13, 0x14]) State.reset (fun t => (t.rsize, t.outq)) =
      some (14, [[0x00, 0x03, 0x00, 0x03, 0x00, 0x04, 0x11, 0x12, 0x13, 0x14]]) := by decide

/-! ### Host actions, one step each -/

/-- V-CTL-11: an illegal word is decoded before any state test. -/
theorem test_step_illegal : afterAction (.write 0x00 0x07) (readyWith [] 0) faultWord = some 0x0004 := by decide

/-- V-CTL-7. -/
theorem test_step_seek :
    afterAction (.write 0x10 3) (readyWith [[], [], []] 0) (fun t => (t.outidx, statusWord t)) = some (3, 1) ∧
      afterAction (.write 0x10 4) (readyWith [[], [], []] 0) faultWord = some 0x0006 := by decide

/-- V-CTL-6. -/
theorem test_step_set_ready :
    afterAction (.write 0x28 8) (readyWith [[]] 0) (fun t => (faultWord t, t.width)) = some (0x0006, 0) := by decide

/-- V-CTL-12. -/
theorem test_step_ignored :
    afterAction (.write 0x18 5) inFault (fun t => decide (t = inFault)) = some true := by decide

/-- 10_state.md R30: READY with a datagram to pull reads 5. -/
theorem test_step_read : afterAction (.read 0x04) (readyWith [[0x01]] 0) (·.reads) = some [5] := by decide

/-- V-CTL-10. -/
theorem test_step_reset :
    afterAction .reset { inFault with chunk := 8 } (fun t => (statusWord t, faultWord t, t.chunk)) =
      some (0, 0, 1440) := by decide

/-- 44_control_ops.md R237. -/
theorem test_step_load : afterAction (.load [0x01]) State.reset (fun t => (t.inBuf, inlen t)) =
    some ([0x01], 1) := by decide

/-- Bytes that are not of the format presented: the reading command faults them. -/
theorem test_step_present_malformed :
    afterAction (.present .frameAck [0x00, 0x07, 0x01, 0xF5, 0x27, 0x10]) State.reset faultWord = some 0x0002 := by
  decide

/-- The word of a table row is the next step's instruction. -/
theorem test_withFetchWord :
    nextOf (step (State.reset.withFetchWord 8 0x0A)) = some (faulted 6 0 State.reset) := by decide

/-- 41_rle_codec.md R160, V-RLE-3's row by solid bytes. -/
theorem test_bytewise : bytewiseDescs 2047 [0xFF, 0xF8] = [.rle true 0 1, .raw 0 0xF8] := by decide

/-- Parameters other than R5's that agree with the formats. -/
def others : BlockConfig :=
  { Config.default with
    rawDgramMax := 16, rlePayloadMax := 9, seqDgramMax := 26, defaultChunk := 8, inumMax := 3, rleLenMax := 2
    ackRecid := 0x0200, paramBits := 16 }

/-- 00_scope.md R5, 10_state.md R21: the commands go by the machine's parameters. -/
theorem test_parameters :
    others.valid = true ∧
      after .recCls { idleWith [0x00, 0x06, 0x02, 0x00, 0x27, 0x10] with cfg := others } (·.rclass) = some 2 ∧
      after .rleEncRow { idleWith [0x00, 0x00, 0x00] with cfg := others, width := 24 } (·.outq) =
        some [[0x80, 0x02, 0x80, 0x01]] ∧
      after .imgPktRaw { idleWith [0x11, 0x12, 0x13] with cfg := others, width := 24, lpp := 1 } faultWord =
        some 0x0501 ∧
      after .imgPktRaw { idleWith [0x11] with cfg := others, inum := 4 } faultWord = some 0x0101 ∧
      after .imgPktRle { idleWith [0x11] with cfg := others, width := 8 } faultWord = some 0x0501 ∧
      after .seqPkt { idleWith [] with cfg := others, chunk := 24 } faultWord = some 0x0003 := by decide

/-- 10_state.md R22, R45: a 16-bit parameter register takes a value of 16 bits, and `CHUNK` resets to
`DEFAULT_CHUNK`. -/
theorem test_parameters_registers :
    afterAction (.write 0x24 0xFFFF) { State.reset with cfg := others } (·.inum) = some 0xFFFF ∧
      afterAction .reset { inFault with cfg := others } (·.chunk) = some 8 := by decide

/-! ### The session -/

/-- Payload 0 says no gap, payload 1 that packet 0 is the last good one, payload 2 that packet 9 is. -/
def gapAnswers : List (List Byte × GapReply) :=
  [([0], .noGap), ([1], .lastGood 0), ([2], .lastGood 9)]

/-- A plan for one raster of one line of one byte. -/
def plan : SessionPlan :=
  { kind := .imgRaw, data := [0x11], priming := ⟨⟨1, []⟩, ⟨2, [0x20]⟩, ⟨3, []⟩, ⟨4, []⟩, ⟨5, []⟩⟩
    gapRequest := ⟨6, []⟩, gapTable := gapAnswers, finalRecord := ⟨7, [0x70]⟩
    endpoints := ⟨"projector", 1, 2⟩ }

/-- A session of that plan in a phase. -/
def sessionIn (p : Phase) (waiting : Bool) : Session :=
  { newSession Config.default plan with
    phase := p, inFlight := waiting, left := primingList plan.priming, sent := 1
    gapFrame := frameOf Config.default plan.gapRequest }

/-- R5's values, and a run that names 1 as its `RETRY_CAP`. -/
def capOne : BlockConfig := { Config.default with retryCap := some 1 }

/-- The block in IDLE, ready to packetize the plan's raster, with a session. -/
def withPlan (ss : Session) : State := { State.reset with width := 8, lpp := 1, session := some ss }

/-- How a session's last report says it ended: the phase it was in, the phase it ended in, its failure. -/
def lastEnd (t : State) : List (Phase × Phase × Option SessionFailure) :=
  t.reports.map fun r => (r.last, r.session.phase, r.session.failure)

/-- The block is in IDLE and there is no session. -/
def sessionOver (t : State) : Bool := decide (t.st = .idle) && t.session.isNone

/-- 46_host_transfer_session.md R253, R260: the check, then the first setup record's frame by REC.ENC. -/
theorem test_session_start :
    afterAction (.session .start) (withPlan (newSession Config.default plan))
        (fun t => (t.recid, t.session.map (·.phase), t.session.map (·.cmdTx))) =
      some (1, some .priming, some [[0x00, 0x04, 0x00, 0x01]]) := by decide

/-- 46_host_transfer_session.md R261: a packetizer command that faults starts nothing. -/
theorem test_session_start_faults :
    afterAction (.session .start) { withPlan (newSession Config.default plan) with lpp := 0 }
        (fun t => (faultWord t, t.session.map (·.phase))) = some (0x0601, some .idle) := by decide

/-- 46_host_transfer_session.md R254, R250: an error reply ends priming and the session. -/
theorem test_session_priming_error :
    afterAction (.session (.reply [0x00, 0x06, 0x01, 0xF5, 0x27, 0x10])) (withPlan (sessionIn .priming true))
        (fun t => (t.session.isNone, lastEnd t)) =
      some (true, [(.priming, .failed, some (.primingFailed [0x00, 0x06, 0x01, 0xF5, 0x27, 0x10]))]) := by decide

/-- 46_host_transfer_session.md R255: a turn of the burst sends the datagram unchanged. -/
theorem test_session_burst :
    afterAction (.session .advance)
        { readyWith [[0x01], [0x02]] 0 with session := some (sessionIn .transferring false) }
        (fun t => (t.outidx, t.session.map (·.dataTx))) = some (1, some [[0x01]]) := by decide

/-- 46_host_transfer_session.md R257, R260: after the last datagram the kept gap request goes out. -/
theorem test_session_gapRequest :
    afterAction (.session .advance)
        { readyWith [[0x01], [0x02]] 2 with session := some (sessionIn .transferring false) }
        (fun t => (t.session.map (·.sent), t.session.map (·.cmdTx))) =
      some (some 2, some [[0x00, 0x04, 0x00, 0x06]]) := by decide

/-- 46_host_transfer_session.md R259: packet 0 is the last good of three, so the repair burst starts at 1. -/
theorem test_session_repair :
    afterAction (.session (.reply [0x00, 0x05, 0x00, 0x01, 0x01]))
        { readyWith [[0x01], [0x02], [0x03]] 3 with
          cfg := capOne, session := some { sessionIn .verifying true with sent := 3 } }
        (fun t => (t.outidx, t.session.map (·.phase), t.session.map (·.retries))) =
      some (1, some .repairing, some 1) := by decide

/-- 46_host_transfer_session.md R259: the same gap at the run's cap. -/
theorem test_session_cap :
    afterAction (.session (.reply [0x00, 0x05, 0x00, 0x01, 0x01]))
        { readyWith [[0x01], [0x02], [0x03]] 3 with
          cfg := capOne, session := some { sessionIn .verifying true with sent := 3, retries := 1 } } lastEnd =
      some [(.verifying, .failed, some .transferIncomplete)] := by decide

/-- 46_host_transfer_session.md R261, log 26: a SEEK of the repair that finds the block in IDLE fails the session. -/
theorem test_session_seek_fault :
    afterAction (.session (.reply [0x00, 0x05, 0x00, 0x01, 0x01]))
        { State.reset with
          cfg := capOne, session := some { sessionIn .verifying true with sent := 3 } }
        (fun t => (sessionOver t, lastEnd t)) =
      some (true, [(.repairing, .failed, some .transportError)]) := by decide

/-- 46_host_transfer_session.md R261, log 26: a LOAD over the capacity in the check starts no session. -/
theorem test_session_load_fault :
    afterAction (.session .start)
        { withPlan (newSession Config.default plan) with cfg := { Config.default with maxStream := some 0 } }
        (fun t => (t.st, t.faultCode, t.session.map (·.phase))) = some (.fault, 8, some .idle) := by decide

/-- 46_host_transfer_session.md R251: a session's timeout is the run's `CMD_TIMEOUT`. -/
theorem test_session_timeout :
    afterAction (.session (.create plan)) { State.reset with cfg := { Config.default with cmdTimeout := 25 } }
        (fun t => t.session.map (·.transport)) = some (some ⟨⟨"projector", 1, 2⟩, 25⟩) := by decide

/-- 46_host_transfer_session.md R260: no gap, so CLR and the final record. -/
theorem test_session_noGap :
    afterAction (.session (.reply [0x00, 0x05, 0x00, 0x01, 0x00]))
        { readyWith [[0x01]] 1 with session := some (sessionIn .verifying true) }
        (fun t => (t.st, t.session.map (·.cmdTx))) = some (.idle, some [[0x00, 0x05, 0x00, 0x07, 0x70]]) := by decide

/-- 46_host_transfer_session.md R260: the final record's reply completes the session whatever its class is. -/
theorem test_session_complete :
    afterAction (.session (.reply [0x00, 0x06, 0x01, 0xF5, 0x27, 0x10]))
        (withPlan { sessionIn .verifying true with finalSent := true }) (fun t => (sessionOver t, lastEnd t)) =
      some (true, [(.verifying, .complete, none)]) := by decide

/-- 46_host_transfer_session.md R261: a truncated final reply is a block fault inside the session. -/
theorem test_session_truncated :
    afterAction (.session (.reply [0x00, 0x06, 0x01]))
        (withPlan { sessionIn .verifying true with finalSent := true }) lastEnd =
      some [(.verifying, .failed, some .transportError)] := by decide

/-- 46_host_transfer_session.md R263: an abort in the middle of a burst. -/
theorem test_session_abort :
    afterAction (.session .abort)
        { readyWith [[0x01], [0x02]] 1 with session := some (sessionIn .transferring false) }
        (fun t => (sessionOver t, lastEnd t)) = some (true, [(.transferring, .transferring, none)]) := by
  decide

/-! ### Witnesses: for each statement with hypotheses, concrete values that meet them all -/

/-- CommandDecoderIsTheTable: the smallest value that is no command, and the smallest with a high bit. -/
theorem witness_CommandDecoderIsTheTable :
    (0x07 : Word) ∉ ([0x00, 0x01, 0x02, 0x03, 0x04, 0x05, 0x06, 0x08, 0x18, 0x09, 0x0A, 0x0B] : List Word) ∧
      (0x100 : Word) ∉ ([0x00, 0x01, 0x02, 0x03, 0x04, 0x05, 0x06, 0x08, 0x18, 0x09, 0x0A, 0x0B] : List Word) := by
  decide

/-- DecodeOfEncodeIsTheInstruction: well-formed wire units at the ends of their ranges. -/
theorem witness_DecodeOfEncodeIsTheInstruction :
    Config.default.valid = true ∧ Instr.clr.wf Config.default = true ∧
      (Instr.frameRecord 0xFFFF []).wf Config.default = true ∧
      (Instr.descRle true 7 2047).wf Config.default = true ∧ (Instr.descRaw 0x7F 0xFF).wf Config.default = true ∧
      (Instr.pktImgRaw 0xFFFF 0xFFFF 0xFFFF [0x00]).wf Config.default = true ∧
      (Instr.pktImgRle 0xFFFF 0 0xFFFE [0x80, 0x01]).wf Config.default = true ∧
      (Instr.chunkSeq 0xFFFF 0xFFFF [0x00]).wf Config.default = true := by decide

/-- EncodeOfDecodeIsTheUnit. -/
theorem witness_EncodeOfDecodeIsTheUnit :
    Config.default.valid = true ∧ others.valid = true ∧ decode Config.default (.cmd 0x18) = .ok .imgPktRle ∧
      decode Config.default (.wire .desc16 [0x87, 0xFF]) = .ok (.descRle false 0 2047) := by decide

/-- A state with one action pending. -/
def pendingWith (a : HostAction) (s : State) : State := { s with pending := [a] }

/-- StepRunsTheDecodedInstruction, both clauses. -/
theorem witness_StepRunsTheDecodedInstruction :
    (pendingWith (.write 0x00 0x0B) inFault).pending = [.write 0x00 0x0B] ∧
      decode inFault.cfg (.cmd 0x0B) = .ok .clr ∧
      (pendingWith (.present .desc16 [0x00, 0xA5]) State.reset).pending = [.present .desc16 [0x00, 0xA5]] ∧
      decode State.reset.cfg (.wire .desc16 [0x00, 0xA5]) = .ok (.descRaw 0 0xA5) := by decide

/-- IllegalWordRaisesIllegalOperation, in IDLE and in FAULT. -/
theorem witness_IllegalWordRaisesIllegalOperation :
    (pendingWith (.write 0x00 0x0C) State.reset).pending = [.write 0x00 0x0C] ∧
      (pendingWith (.write 0x00 0x0C) inFault).pending = [.write 0x00 0x0C] ∧
      (0x0C : Word).toNat ∉ [0x00, 0x01, 0x02, 0x03, 0x04, 0x05, 0x06, 0x08, 0x09, 0x0A, 0x0B, 0x18] := by
  decide

/-- RecEncFramesThePayload: the largest record id and the first one too large. -/
theorem witness_RecEncFramesThePayload :
    ({ idleWith [] with recid := 65535 } : State).st = .idle ∧
      after .recEnc { idleWith [] with recid := 65535 } (·.st) = some .ready ∧
      after .recEnc { idleWith [] with recid := 65536 } (·.st) = some .fault := by decide

/-- RecDecValidatesAndDecodes: the shortest frame and one byte less. -/
theorem witness_RecDecValidatesAndDecodes :
    (idleWith [0x00, 0x04, 0x00, 0x70]).st = .idle ∧
      after .recDec (idleWith [0x00, 0x04, 0x00, 0x70]) (·.st) = some .ready ∧
      after .recDec (idleWith [0x00, 0x03, 0x00]) (·.st) = some .fault := by decide

/-- EncodeAndDecodeAreInverse: the first clause, then the second and the third on the states it makes. -/
theorem witness_EncodeAndDecodeAreInverse :
    State.reset.st = .idle ∧ State.reset.recid.toNat ≤ 65535 ∧ State.reset.inBuf.length ≤ 65531 ∧
      nextOf (exec .recEnc State.reset) = some (produced [[0x00, 0x04, 0x00, 0x00]] State.reset) ∧
      nextOf (exec .recDec (idleWith [0x00, 0x04, 0x00, 0x70])) =
        some (replied [[]] 0 0 (idleWith [0x00, 0x04, 0x00, 0x70])) := by decide

/-- RecClsClassifiesTheReply: an acknowledgement, a frame one byte longer, and a frame cut short. -/
theorem witness_RecClsClassifiesTheReply :
    (idleWith [0x00, 0x06, 0x01, 0xF5, 0x27, 0x10]).st = .idle ∧
      after .recCls (idleWith [0x00, 0x07, 0x01, 0xF5, 0x27, 0x10, 0x00]) (·.rclass) = some 3 ∧
      after .recCls (idleWith [0x00, 0x06, 0x01, 0xF5, 0x27]) (·.st) = some .fault := by decide

/-- Some code is the OK code, whatever the free constant is. -/
theorem some_code_isAckOk : ∃ c : BitVec 16, isAckOk c = true := by
  by_cases h : Config.ackOkRaw = 0x2710
  · exact ⟨0, by simp [isAckOk, h]⟩
  · refine ⟨Config.ackOkRaw, ?_⟩
    simp only [isAckOk, bne, beq_self_eq_true, Bool.true_or, Bool.and_true, Bool.not_eq_true']
    exact beq_false_of_ne h

/-- RleDecRowExpandsInOrder, both clauses. -/
theorem witness_RleDecRowExpandsInOrder :
    (idleWith [0x80]).st = .idle ∧ (idleWith [0x80]).inBuf.length % 2 = 1 ∧
      (idleWith [0xC0, 0x03]).inBuf.length % 2 = 0 ∧
      (∀ d ∈ streamDescs Config.defaultLayout [0xC0, 0x03], reservedDesc Config.default d = false) ∧
      Fits Config.default ((streamDescs Config.defaultLayout [0xC0, 0x03]).flatMap expand).length :=
  ⟨rfl, by decide, by decide, by decide, fun _ h => by cases h⟩

theorem fits_default (n : Nat) : Fits Config.default n := fun _ h => by cases h

/-- A capacity of three bytes and the policy `refuse`. -/
def tight : BlockConfig := { Config.default with tpPolicy := .refuse, maxStream := some 3 }

theorem fits_tight {n : Nat} : Fits tight n ↔ n ≤ 3 := by simp [Fits, tight]

/-- RleDecRowFaultOrder: after a run of three bytes, a refused descriptor, and one byte too many. -/
theorem witness_RleDecRowFaultOrder :
    streamDescs tight.layout [0xC0, 0x03, 0x88, 0x01] = [.rle true 0 3] ++ .rle false 1 1 :: [] ∧
      streamDescs tight.layout [0xC0, 0x03, 0x80, 0x01] = [.rle true 0 3] ++ .rle false 0 1 :: [] ∧
      reservedDesc tight (.rle true 0 3) = false ∧ reservedDesc tight (.rle false 1 1) = true ∧
      reservedDesc tight (.rle false 0 1) = false ∧
      Fits tight ([Desc.rle true 0 3].flatMap expand).length ∧
      ¬Fits tight (([Desc.rle true 0 3] ++ [Desc.rle false 0 1]).flatMap expand).length :=
  ⟨by decide, by decide, by decide, by decide, by decide, fits_tight.2 (by decide),
    fun h => absurd (fits_tight.1 h) (by decide)⟩

/-- LongRunsAreSplitAt2047: a run that is the whole row, one between two other bytes, and the empty run. -/
theorem witness_LongRunsAreSplitAt2047 :
    solid 0xFF = true ∧ ([] : List Byte).head? ≠ some 0xFF ∧ ([0x0F] : List Byte).head? ≠ some 0xFF ∧
      ([] : List Byte).getLast? ≠ some 0xFF ∧ ([0xFF, 0x00] : List Byte).getLast? ≠ some 0xFF ∧
      (1 = 0 → ([0xFF, 0x00] : List Byte) = []) ∧ (0 = 0 → ([] : List Byte) = []) := by decide

/-- RleEncRowChecksAndCompresses: the smallest legal width, and a width that is no multiple of 8. -/
theorem witness_RleEncRowChecksAndCompresses :
    ({ idleWith [0x00] with width := 8 } : State).st = .idle ∧
      after .rleEncRow { idleWith [0x00] with width := 8 } (·.outq) = some [[0x80, 0x01]] ∧
      after .rleEncRow { idleWith [0x00] with width := 12 } faultWord = some 0x0201 := by decide

/-- EncrowLengthBound and RleRoundTrip: the smallest and the largest `RLE_LEN_MAX`, and the clause through the two
commands. -/
theorem witness_RleRoundTrip :
    2 ≤ ({ Config.default with rleLenMax := 2 } : BlockConfig).rleLenMax ∧ (1 ≤ 1 ∧ 1 ≤ 2047) ∧
      (1 ≤ 2047 ∧ 2047 ≤ 2047) ∧ Config.default.layout.valid = true ∧
      (idleWith [0xFF, 0xF8]).cfg.valid = true ∧ (16 : Word).toNat ≠ 0 ∧ (16 : Word).toNat % 8 = 0 ∧
      ([0xFF, 0xF8] : List Byte).length = (16 : Word).toNat / 8 ∧ Fits Config.default 2 :=
  ⟨by decide, by decide, by decide, by decide, by decide, by decide, by decide, by decide, fun _ h => by cases h⟩

/-- RleEncImgChecksAndCompresses and RleEncImgIsRowByRow: two rows of two bytes. -/
theorem witness_RleEncImgIsRowByRow :
    ({ idleWith [0xFF, 0xFF, 0xFF, 0xFF] with width := 16 } : State).st = .idle ∧
      Config.default.valid = true ∧ (16 : Word).toNat ≠ 0 ∧ (16 : Word).toNat % 8 = 0 ∧
      ([0xFF, 0xFF, 0xFF, 0xFF] : List Byte).length % ((16 : Word).toNat / 8) = 0 := by decide

/-- ImgPktRawTestsAndPackets and ImgPktRawLaws: the command succeeds. -/
theorem witness_ImgPktRawLaws :
    ∃ t, ({ idleWith [0xAA] with inum := 0xFFFF, width := 8, lpp := 1 } : State).st = .idle ∧
      Config.default.valid = true ∧
      exec .imgPktRaw { idleWith [0xAA] with inum := 0xFFFF, width := 8, lpp := 1 } = .next t ∧ t.st = .ready :=
  ⟨_, rfl, by decide, rfl, by decide⟩

/-- ImgPktRleTestsAndPackets and ImgPktRleLaws: the command succeeds. -/
theorem witness_ImgPktRleLaws :
    ∃ t, ({ idleWith [0xAA] with inum := 0xFFFF, width := 8 } : State).st = .idle ∧
      Config.default.valid = true ∧
      exec .imgPktRle { idleWith [0xAA] with inum := 0xFFFF, width := 8 } = .next t ∧ t.st = .ready :=
  ⟨_, rfl, by decide, rfl, by decide⟩

/-- SeqPktTestsAndChunks, SeqPktLaws and LegalChunkSizes: the smallest legal size, and the first above the largest. -/
theorem witness_SeqPktLaws :
    (∃ t, ({ idleWith [0x01] with chunk := 8 } : State).st = .idle ∧
      Config.default.valid = true ∧ Config.default.seqDgramMax = 1500 ∧ Config.default.seqHdrBytes = 10 ∧
      exec .seqPkt { idleWith [0x01] with chunk := 8 } = .next t ∧ t.st = .ready) ∧
    ∃ t, exec .seqPkt { idleWith [0x01] with chunk := 1496 } = .next t ∧ t.st = .fault :=
  ⟨⟨_, rfl, by decide, rfl, rfl, rfl, by decide⟩, ⟨_, rfl, by decide⟩⟩

/-- NextHandsOverOneDatagram: each state, with the cursor at the last datagram and after it. -/
theorem witness_NextHandsOverOneDatagram :
    inFault.st = .fault ∧ State.reset.st = .idle ∧ (readyWith [[0x01]] 0).st = .ready ∧
      (readyWith [[0x01]] 0).outidx < (readyWith [[0x01]] 0).outq.length ∧
      (readyWith [[0x01]] 1).outq.length ≤ (readyWith [[0x01]] 1).outidx := by decide

/-- OperationsOutsideIdle. -/
theorem witness_OperationsOutsideIdle :
    isOperation .recEnc = true ∧ isOperation .seqPkt = true ∧ (readyWith [] 0).st = .ready ∧ inFault.st = .fault := by
  decide

/-- SeekMovesTheCursor: the largest legal cursor and the first beyond. -/
theorem witness_SeekMovesTheCursor :
    (pendingWith (.write 0x10 1) (readyWith [[0x01]] 0)).pending = [.write 0x10 1] ∧
      (1 : Word).toNat ≤ (readyWith [[0x01]] 0).outq.length ∧
      ¬(2 : Word).toNat ≤ (readyWith [[0x01]] 0).outq.length := by decide

/-- LoadReplacesTheInput: a capacity of three bytes, exactly filled and exceeded. -/
theorem witness_LoadReplacesTheInput :
    (pendingWith (.load [1, 2, 3]) { State.reset with cfg := tight }).pending = [.load [1, 2, 3]] ∧
      Fits tight ([1, 2, 3] : List Byte).length ∧ ¬Fits tight ([1, 2, 3, 4] : List Byte).length :=
  ⟨by decide, fits_tight.2 (by decide), fun h => absurd (fits_tight.1 h) (by decide)⟩

/-- SetWritesOneParameter: the largest value of 32 bits and of 16, the first and the last parameter's
offset, and the offsets beside them. -/
theorem witness_SetWritesOneParameter :
    (pendingWith (.write 0x20 5) State.reset).pending = [.write 0x20 5] ∧
      (0xFFFFFFFF : Word).toNat < 2 ^ Config.default.paramBits ∧ (0xFFFF : Word).toNat < 2 ^ others.paramBits ∧
      0x20 ∈ [0x20, 0x24, 0x28, 0x2C, 0x30] ∧ 0x30 ∈ [0x20, 0x24, 0x28, 0x2C, 0x30] ∧
      0x14 % 4 = 0 ∧ 0x34 % 4 = 0 ∧ 0x14 ∉ [0x00, 0x10, 0x20, 0x24, 0x28, 0x2C, 0x30] ∧
      0x34 ∉ [0x00, 0x10, 0x20, 0x24, 0x28, 0x2C, 0x30] := by
  decide

/-- ReadShowsTheRegister. -/
theorem witness_ReadShowsTheRegister :
    (pendingWith (.read 0x4C) State.reset).pending = [.read 0x4C] ∧ 0x4C % 4 = 0 ∧
      (pendingWith (.read 0x4C) State.reset).outq.length < 2 ^ 32 ∧
      (pendingWith (.read 0x4C) State.reset).outidx < 2 ^ 32 ∧
      (pendingWith (.read 0x4C) State.reset).inBuf.length < 2 ^ 32 ∧
      ((pendingWith (.read 0x4C) State.reset).outq.getD 0 []).length < 2 ^ 32 := by decide

/-- ResetFromAnyState. -/
theorem witness_ResetFromAnyState :
    (pendingWith .reset inFault).pending = [.reset] ∧ (pendingWith .reset inFault).cfg = Config.default := by decide

/-- PullLoopHandsOverTheRest: two datagrams left of three. -/
theorem witness_PullLoopHandsOverTheRest :
    (readyWith [[1], [2], [3]] 1).st = .ready ∧ (readyWith [[1], [2], [3]] 1).outidx ≤ 3 ∧
      ({ readyWith [[1], [2], [3]] 1 with
          pending := [.write 0x00 0x0A, .write 0x00 0x0A, .read 0x04] } : State).pending =
        List.replicate (3 - 1) (.write 0x00 0x0A) ++ [.read 0x04] := by decide

/-- SeekRestartsTheStream: back to the second of three datagrams. -/
theorem witness_SeekRestartsTheStream :
    (readyWith [[1], [2], [3]] 3).st = .ready ∧ (1 : Word).toNat ≤ (readyWith [[1], [2], [3]] 3).outq.length ∧
      ({ readyWith [[1], [2], [3]] 3 with
          pending := [.write 0x10 1, .write 0x00 0x0A, .write 0x00 0x0A] } : State).pending =
        .write 0x10 1 :: (List.replicate (3 - (1 : Word).toNat) (.write 0x00 0x0A) ++ []) := by decide

/-- FaultEntryWritesNothingElse: NEXT in IDLE. -/
theorem witness_FaultEntryWritesNothingElse :
    isSingle (.write 0x00 0x0A) = true ∧ State.reset.st ≠ .fault ∧
      nextOf (step (pendingWith (.write 0x00 0x0A) State.reset)) = some (faulted 6 0 State.reset) := by decide

/-- FaultIsStickyUntilClearOrReset: NEXT in FAULT. -/
theorem witness_FaultIsStickyUntilClearOrReset :
    inFault.st = .fault ∧ HostAction.write 0x00 0x0A ≠ .reset ∧ (∀ n, HostAction.write 0x00 0x0A ≠ .read n) ∧
      (∀ e, HostAction.write 0x00 0x0A ≠ .session e) ∧
      HostAction.write 0x00 0x0A ≠ .write 0x00 0x0B := by
  refine ⟨rfl, by decide, fun _ h => ?_, fun _ h => ?_, by decide⟩ <;> cases h

/-- A session that failed at its retry cap, as its report holds it. -/
def incomplete : Session :=
  { sessionIn .failed false with retries := 1, failure := some .transferIncomplete }

/-- The block in FAULT, with a session that waits in `Verifying` and one that has failed. -/
def withSessions : State :=
  { inFault with
    cfg := capOne, session := some (sessionIn .verifying true)
    reports := [{ last := .verifying, session := incomplete }] }

/-- EveryStepKeepsTheInvariants: a state in FAULT with a session in flight and a failed one meets the invariant, and
steps; so does one step by a session event. -/
theorem witness_EveryStepKeepsTheInvariants :
    (∃ t, step (pendingWith (.write 0x00 0x0B) withSessions) = .next t) ∧
      (∃ t, step (pendingWith (.session .timeout) withSessions) = .next t) ∧
      MachineInv (pendingWith (.write 0x00 0x0B) withSessions) ∧
      MachineInv (pendingWith (.session .timeout) withSessions) := by
  have block : BlockInv withSessions :=
    ⟨by decide, by decide, by decide, by decide, by decide, by decide, by decide, .inl rfl, by decide, by decide,
      by decide, fun v _ => v.isLt⟩
  have live : SessionInv capOne (sessionIn .verifying true) :=
    ⟨by decide, by decide, by decide, by decide, fun _ => rfl, rfl⟩
  have ended : SessionInv capOne incomplete := ⟨by decide, by decide, by decide, by decide, by decide, rfl⟩
  have whole : ∀ a, MachineInv (pendingWith a withSessions) := fun a =>
    ⟨⟨block.cursor, block.faultExactly, block.queueOnlyReady, block.queueBound, block.codeRange, block.paramRange,
      block.paramExactly, block.sizeRange, block.idRange, block.classRange, block.codeFieldRange, block.paramWidth⟩,
      fun _ h => by cases h; exact ⟨live, rfl⟩, fun _ h => by
      rcases List.mem_singleton.1 h with rfl; exact ⟨ended, rfl⟩⟩
  exact ⟨⟨_, rfl⟩, ⟨_, rfl⟩, whole _, whole _⟩

/-- NoStepChangesTheParameters. -/
theorem witness_NoStepChangesTheParameters : ∃ t, step (pendingWith .reset inFault) = .next t := ⟨_, rfl⟩

/-- CommandFrames: REC.DEC of a frame. -/
theorem witness_CommandFrames :
    isCommand .recDec = true ∧ ∃ t, exec .recDec (idleWith [0x00, 0x04, 0x00, 0x70]) = .next t := ⟨rfl, _, rfl⟩

/-- OperationsReadOnlyTheirOperands: two states that differ in `LPP`, which IMG.PKT.RLE does not read. -/
theorem witness_OperationsReadOnlyTheirOperands :
    isOperation .imgPktRle = true ∧ (idleWith [0xAA]).st = .idle ∧
      AgreeOn .imgPktRle { idleWith [0xAA] with width := 8 } { idleWith [0xAA] with width := 8, lpp := 7 } :=
  ⟨rfl, rfl, rfl, rfl, rfl, rfl⟩

/-- PresentingIsLoadThenCommand: an acknowledgement, and an image packet that no command reads. -/
theorem witness_PresentingIsLoadThenCommand :
    encode Config.default (.frameAck 0x2710) =
        .wire .frameAck [0x00, 0x06, 0x01, 0xF5, 0x27, 0x10] ∧
      (∃ t, exec (.frameAck 0x2710) State.reset = .next t) ∧
      ∃ b, encode Config.default (.pktImgRaw 0 7 0 [0xAA]) = .wire .pktImgRaw b :=
  ⟨by decide, ⟨_, rfl⟩, ⟨_, rfl⟩⟩

/-- FrameRecordPresented, FrameAckPresented and PacketsPresented: the shortest and the longest payload. -/
theorem witness_FrameRecordPresented :
    State.reset.st = .idle ∧ ([] : List Byte).length ≤ 65531 ∧ Fits State.reset.cfg (4 + 0) ∧
      (List.replicate 65531 (0 : Byte)).length ≤ 65531 ∧ Fits State.reset.cfg 6 ∧
      12 + (List.replicate 65523 (0 : Byte)).length ≤ 65535 ∧
      10 + (List.replicate 65525 (0 : Byte)).length ≤ 65535 :=
  ⟨rfl, by decide, fits_default _, by rw [List.length_replicate], fits_default _,
    by rw [List.length_replicate], by rw [List.length_replicate]⟩

/-- DescriptorsPresented: a capacity of three bytes, the policy `refuse`, and each clause. -/
theorem witness_DescriptorsPresented :
    ({ State.reset with cfg := tight } : State).st = .idle ∧ tight.layout.valid = true ∧ Fits tight 2 ∧
      (tight.tpPolicy = .ignore ∨ (0 : BitVec 3) = 0) ∧ Fits tight (3 : BitVec 11).toNat ∧
      tight.tpPolicy = .refuse ∧ (7 : BitVec 3) ≠ 0 :=
  ⟨rfl, by decide, fits_tight.2 (by decide), .inr rfl, fits_tight.2 (by decide), rfl, by decide⟩

/-- SessionStartsWithTheCheck: no session; and a session in `Idle` whose packetizer command succeeds, and with an
`LPP` of 0 faults. -/
theorem witness_SessionStartsWithTheCheck :
    State.reset.session = none ∧
      (withPlan (newSession Config.default plan)).session = some (newSession Config.default plan) ∧
      (newSession Config.default plan).phase = .idle ∧ (withPlan (newSession Config.default plan)).st = .idle ∧
      Fits (withPlan (newSession Config.default plan)).cfg plan.data.length ∧
      after (packetizerOf plan.kind) { withPlan (newSession Config.default plan) with inBuf := plan.data } (·.st) =
        some .ready ∧
      after (packetizerOf plan.kind)
          { withPlan (newSession Config.default plan) with inBuf := plan.data, lpp := 0 } (·.st) =
        some .fault ∧
      Encodable (withPlan (newSession Config.default plan)).cfg plan.priming.selectMode :=
  ⟨rfl, rfl, rfl, rfl, fits_default _, by decide, by decide, by decide, by decide, fits_default _⟩

/-- TerminalPhasesStay: a reply after the end. -/
theorem witness_TerminalPhasesStay :
    (withPlan (sessionIn .complete false)).session = some (sessionIn .complete false) ∧
      (sessionIn .complete false).phase = .complete ∧ State.reset.session = none ∧
      ∀ p, SessionEvent.reply [] ≠ .create p :=
  ⟨rfl, rfl, rfl, fun _ h => by cases h⟩

/-- TransportFailuresEndTheSession and AbortLeavesRoomForTheNextSession: a session waiting in `Priming`. -/
theorem witness_TransportFailuresEndTheSession :
    (withPlan (sessionIn .priming true)).session = some (sessionIn .priming true) ∧
      (sessionIn .priming true).phase ≠ .complete ∧ (sessionIn .priming true).phase ≠ .failed ∧
      (sessionIn .priming true).inFlight = true := by decide

/-- AbortLeavesRoomForTheNextSession: a session in the middle of its burst. -/
theorem witness_AbortLeavesRoomForTheNextSession :
    (sessionIn .transferring false).phase ≠ .complete ∧ (sessionIn .transferring false).phase ≠ .failed ∧
      ({ withPlan (sessionIn .transferring false) with
          pending := [.session .abort, .session (.create plan)] } : State).pending =
        .session .abort :: .session (.create plan) :: [] := by decide

/-- Some reply is an acknowledgement with the OK code, whatever the free constant is. -/
theorem some_reply_isOk : ∃ b : Datagram, OkReply Config.default b := by
  obtain ⟨c, hc⟩ := some_code_isAckOk
  refine ⟨[0x00, 0x06, 0x01, 0xF5] ++ be16 c.toNat, by simp, by simp [rd16], by simp [rd16]; rfl, ?_⟩
  have h : rd16 ([0x00, 0x06, 0x01, 0xF5] ++ be16 c.toNat) 4 = c.toNat := by
    have h0 := rd16_be16_zero c.isLt []
    rw [List.append_nil] at h0
    exact h0
  rw [h, BitVec.ofNat_toNat, BitVec.setWidth_eq]
  exact hc

/-- A record no frame can hold: its id needs more than 16 bits. -/
def wideRecord : CommandRecord := ⟨65536, []⟩

theorem wideRecord_not_encodable : ¬Encodable Config.default wideRecord := fun h => absurd h.1 (by decide)

/-- PrimingGoesOnOnlyAfterOk: the OK reply, an error reply, a reply of four bytes under a capacity of three; a record
that has a frame and one that has none. -/
theorem witness_PrimingGoesOnOnlyAfterOk :
    (sessionIn .priming true).phase = .priming ∧ (sessionIn .priming true).inFlight = true ∧
      (sessionIn .priming true).left = ⟨1, []⟩ :: ⟨2, [0x20]⟩ :: [⟨3, []⟩, ⟨4, []⟩, ⟨5, []⟩] ∧
      Fits Config.default 6 ∧ (∃ b : Datagram, OkReply Config.default b) ∧ Encodable Config.default ⟨2, [0x20]⟩ ∧
      ¬Encodable Config.default wideRecord ∧ ¬OkReply Config.default [0x00, 0x06, 0x01, 0xF5, 0x27, 0x10] ∧
      ¬Fits tight ([0x00, 0x04, 0x00, 0x70] : Datagram).length :=
  ⟨rfl, rfl, rfl, fits_default _, some_reply_isOk, ⟨by decide, by decide, fits_default _⟩,
    wideRecord_not_encodable, fun h => absurd h.2.2.2 (by decide),
    fun h => absurd (fits_tight.1 h) (by decide)⟩

/-- LastOkBeginsTheBurst: one record left, and a packetizer command that succeeds, and with an `LPP` of 0 faults. -/
theorem witness_LastOkBeginsTheBurst :
    ({ sessionIn .priming true with left := [⟨5, []⟩] } : Session).left = [⟨5, []⟩] ∧
      (∃ b : Datagram, OkReply Config.default b) ∧ (∀ b : Datagram, Fits Config.default b.length) ∧
      Encodable Config.default plan.gapRequest ∧ Fits Config.default plan.data.length ∧
      after (packetizerOf plan.kind) { withPlan (sessionIn .priming true) with inBuf := plan.data } (·.st) =
        some .ready ∧
      after (packetizerOf plan.kind) { withPlan (sessionIn .priming true) with inBuf := plan.data, lpp := 0 }
        (·.st) = some .fault :=
  ⟨rfl, some_reply_isOk, fun _ => fits_default _, ⟨by decide, by decide, fits_default _⟩, fits_default _,
    by decide, by decide⟩

/-- BurstSendsTheQueue: one datagram left, and a repair burst. -/
theorem witness_BurstSendsTheQueue :
    (readyWith [[1], [2]] 1).st = .ready ∧ (readyWith [[1], [2]] 1).outidx ≤ 2 ∧
      (sessionIn .transferring false).phase = .transferring ∧ (sessionIn .repairing false).phase = .repairing ∧
      ([.session .advance, .session .advance] : List HostAction) =
        List.replicate (2 - 1 + 1) (.session .advance) ++ [] := by decide

/-- GapTestRepairsFromG: three packets sent, and a reply for each clause (no gap; one held, below the cap and at it;
more held than sent); a final record that has a frame and one that has none. -/
theorem witness_GapTestRepairsFromG :
    (({ sessionIn .verifying true with sent := 3 } : Session).finalSent = false ∧
      (readyWith [[1], [2], [3]] 3).outq.length = 3 ∧
      rd16 [0x00, 0x05, 0x00, 0x01, 0x00] 0 = 5 ∧ rd16 [0x00, 0x05, 0x00, 0x01, 0x02] 0 = 5 ∧
      parseGap plan [0x00] = .noGap ∧ parseGap plan [0x01] = .lastGood 0 ∧ parseGap plan [0x02] = .lastGood 9 ∧
      (0 + 1 - 0 < 3 ∧ 3 < 9 + 1 - 0) ∧ (sessionIn .verifying true).retries ≠ retryCap capOne ∧
      ({ sessionIn .verifying true with retries := 1 } : Session).retries = retryCap capOne) ∧
      Encodable Config.default plan.finalRecord ∧ ¬Encodable Config.default wideRecord :=
  ⟨by decide, ⟨by decide, by decide, fits_default _⟩, wideRecord_not_encodable⟩

/-- FinalReplyCompletesTheSession: the shortest reply that is well framed, one byte less, and one the capacity of three
bytes does not admit. -/
theorem witness_FinalReplyCompletesTheSession :
    ({ sessionIn .verifying true with finalSent := true } : Session).finalSent = true ∧
      (sessionIn .verifying true).phase = .verifying ∧ (sessionIn .verifying true).inFlight = true ∧
      Fits Config.default 4 ∧ 4 ≤ ([0x00, 0x04, 0x00, 0x70] : Datagram).length ∧
      rd16 [0x00, 0x04, 0x00, 0x70] 0 = ([0x00, 0x04, 0x00, 0x70] : Datagram).length ∧
      ¬4 ≤ ([0x00, 0x03, 0x00] : Datagram).length ∧ ¬Fits tight 4 :=
  ⟨rfl, rfl, rfl, fits_default _, by decide, by decide, by decide, fun h => absurd (fits_tight.1 h) (by decide)⟩

end Sys2Proof.Tests
end

section
/-! The parameters of a run are fixed: no action of the host writes `cfg`. One lemma per operation of the model, then
one per kind of action, then the step. -/

namespace Sys2Proof.Machine

/-! ### Commands and presented units -/

/-- Everything an instruction can do, in terms of the shared operations (44_control_ops.md R230 to R235; log 2). -/
theorem exec_cases (i : Instr) (s : State) :
    exec i s = .next s
      ∨ exec i s = .next (clear s)
      ∨ exec i s = .next (pullNext s)
      ∨ (∃ op, exec i s = .next (runOp op s))
      ∨ (∃ f b, exec i s = .next (presentBytes (consumerOf f) b s)) := by
  cases i with
  | nop => exact .inl rfl
  | clr => exact .inr (.inl rfl)
  | next => exact .inr (.inr (.inl rfl))
  | recEnc | recDec | recCls | rleEncRow | rleDecRow | rleEncImg | imgPktRaw | imgPktRle | seqPkt =>
    exact .inr (.inr (.inr (.inl ⟨_, rfl⟩)))
  | frameRecord => exact .inr (.inr (.inr (.inr ⟨.frameRecord, _, rfl⟩)))
  | frameAck => exact .inr (.inr (.inr (.inr ⟨.frameAck, _, rfl⟩)))
  | descRle | descRaw => exact .inr (.inr (.inr (.inr ⟨.desc16, _, rfl⟩)))
  | pktImgRaw => exact .inr (.inr (.inr (.inr ⟨.pktImgRaw, _, rfl⟩)))
  | pktImgRle => exact .inr (.inr (.inr (.inr ⟨.pktImgRle, _, rfl⟩)))
  | chunkSeq => exact .inr (.inr (.inr (.inr ⟨.chunkSeq, _, rfl⟩)))

@[simp] theorem consumerOf_cfg (f : WireFormat) (s : State) : (consumerOf f s).cfg = s.cfg := by
  cases f with
  | pktImgRaw => rfl
  | frameRecord | frameAck | desc16 | pktImgRle | chunkSeq => exact runOp_cfg _ s

@[simp] theorem presentBytes_consumerOf_cfg (f : WireFormat) (b : List Byte) (s : State) :
    (presentBytes (consumerOf f) b s).cfg = s.cfg := by
  simp [presentBytes]

/-- No instruction writes a parameter of the run. -/
theorem exec_cfg {i : Instr} {s t : State} (h : exec i s = .next t) : t.cfg = s.cfg := by
  rcases exec_cases i s with e | e | e | ⟨_, e⟩ | ⟨_, _, e⟩ <;> cases e.symm.trans h <;> simp

@[simp] theorem runUndecoded_cfg (u : CodeUnit) (s : State) : (runUndecoded u s).cfg = s.cfg := by
  cases u with
  | cmd _ => exact raise_cfg _ s
  | wire f b => exact presentBytes_consumerOf_cfg f b s

/-! ### Register writes -/

@[simp] theorem doSeek_cfg (v : Word) (s : State) : (doSeek v s).cfg = s.cfg := by
  rcases doSeek_cases v s with ⟨_, _, e⟩ | ⟨_, _, e⟩ | ⟨_, e⟩ | ⟨_, e⟩ <;> simp [e]

theorem doSet_cfg {write : State → State} {s : State} (hw : (write s).cfg = s.cfg) :
    (doSet write s).cfg = s.cfg := by
  rcases doSet_cases write s with ⟨_, e⟩ | ⟨_, e⟩ | ⟨_, e⟩ <;> simp [e, hw]

@[simp] theorem writeReg_cfg (v : Word) (r : Reg) (s : State) : (writeReg v r s).cfg = s.cfg := by
  cases r with
  | outidx => exact doSeek_cfg v s
  | recid | inum | width | lpp | chunk => exact doSet_cfg rfl
  | cmd | status | fault | outcnt | outlen | inlen | rsize | rrecid | rclass | rcode => rfl

@[simp] theorem writeAt_cfg (offset : Nat) (v : Word) (s : State) : (writeAt offset v s).cfg = s.cfg := by
  unfold writeAt
  split
  · exact writeReg_cfg v _ s
  · rfl

/-! ### The session's use of the block -/

@[simp] theorem failSession_cfg (f : SessionFailure) (ss : Session) (s : State) :
    (failSession f ss s).cfg = s.cfg := rfl

@[simp] theorem completeSession_cfg (ss : Session) (s : State) : (completeSession ss s).cfg = s.cfg := rfl

@[simp] theorem abortSession_cfg (ss : Session) (s : State) : (abortSession ss s).cfg = s.cfg := rfl

@[simp] theorem runPacketizer_cfg (k : Packetizer) (s : State) : (runPacketizer k s).cfg = s.cfg := by
  cases k with
  | imgRaw | imgRle | seq => exact runOp_cfg _ s

@[simp] theorem packetizeData_cfg (plan : SessionPlan) (s : State) : (packetizeData plan s).cfg = s.cfg := by
  simp [packetizeData]

@[simp] theorem runRecCls_cfg (s : State) : (runRecCls s).cfg = s.cfg := runOp_cfg _ s

@[simp] theorem encodeRecord_cfg (r : CommandRecord) (s : State) : (encodeRecord r s).cfg = s.cfg := by
  have hset : (doSet (fun t => { t with recid := fitParam t.cfg r.recordId }) s).cfg = s.cfg := doSet_cfg rfl
  simp [encodeRecord, runRecEnc, hset]

/-- Making a frame keeps the parameters where what goes on with it does. -/
theorem makeFrame_cfg {r : CommandRecord} {ss : Session} {go : Datagram → State → State} {s : State}
    (hgo : ∀ frame t, (go frame t).cfg = t.cfg) : (makeFrame r ss go s).cfg = s.cfg := by
  unfold makeFrame
  dsimp only
  split <;> simp [hgo]

@[simp] theorem issueRecord_cfg (r : CommandRecord) (after ss : Session) (s : State) :
    (issueRecord r after ss s).cfg = s.cfg :=
  makeFrame_cfg fun _ _ => rfl

@[simp] theorem startSession_cfg (ss : Session) (s : State) : (startSession ss s).cfg = s.cfg := by
  unfold startSession
  dsimp only
  split <;> simp

@[simp] theorem beginBurst_cfg (ss : Session) (s : State) : (beginBurst ss s).cfg = s.cfg := by
  unfold beginBurst
  dsimp only
  split <;> simp

@[simp] theorem primingOk_cfg (ss : Session) (s : State) : (primingOk ss s).cfg = s.cfg := by
  unfold primingOk
  split
  · exact makeFrame_cfg fun _ t => beginBurst_cfg _ t
  · exact issueRecord_cfg _ _ _ s

@[simp] theorem primingReply_cfg (b : Datagram) (ss : Session) (s : State) :
    (primingReply b ss s).cfg = s.cfg := by
  unfold primingReply
  dsimp only
  split
  · split <;> simp
  · simp
  · simp

@[simp] theorem beginRepair_cfg (g : Nat) (ss : Session) (s : State) : (beginRepair g ss s).cfg = s.cfg := by
  unfold beginRepair
  dsimp only
  split <;> simp

@[simp] theorem gapTest_cfg (g : Nat) (ss : Session) (s : State) : (gapTest g ss s).cfg = s.cfg := by
  unfold gapTest
  split_ifs <;> simp

@[simp] theorem finalReply_cfg (b : Datagram) (ss : Session) (s : State) : (finalReply b ss s).cfg = s.cfg := by
  unfold finalReply
  dsimp only
  split <;> simp

@[simp] theorem verifyingReply_cfg (b : Datagram) (ss : Session) (s : State) :
    (verifyingReply b ss s).cfg = s.cfg := by
  unfold verifyingReply
  split_ifs <;> simp

@[simp] theorem sessionReply_cfg (b : Datagram) (ss : Session) (s : State) :
    (sessionReply b ss s).cfg = s.cfg := by
  unfold sessionReply
  split
  · split <;> simp
  · rfl

@[simp] theorem burstTurn_cfg (after : Session → Session) (ss : Session) (s : State) :
    (burstTurn after ss s).cfg = s.cfg := by
  unfold burstTurn
  split
  · split <;> simp
  · simp
  · simp

@[simp] theorem sessionAdvance_cfg (ss : Session) (s : State) : (sessionAdvance ss s).cfg = s.cfg := by
  unfold sessionAdvance
  split <;> simp

@[simp] theorem sessionEvent_cfg (e : SessionEvent) (ss : Session) (s : State) :
    (sessionEvent e ss s).cfg = s.cfg := by
  cases e with
  | reply b => exact sessionReply_cfg b ss s
  | advance => exact sessionAdvance_cfg ss s
  | create | start | timeout | socketError | abort =>
    unfold sessionEvent
    dsimp only
    split_ifs <;> simp

@[simp] theorem sessionTurn_cfg (e : SessionEvent) (s : State) : (sessionTurn e s).cfg = s.cfg := by
  cases hs : s.session with
  | some ss => rw [sessionTurn_of_some e hs, sessionEvent_cfg]
  | none => cases e <;> simp [sessionTurn, hs]

/-! ### The step -/

@[simp] theorem runPlain_cfg (a : HostAction) (s : State) : (runPlain a s).cfg = s.cfg := by
  cases a with
  | write offset v => exact writeAt_cfg offset v s
  | read offset => exact doRead_cfg offset s
  | load b => exact doLoad_cfg b s
  | reset => exact doReset_cfg s
  | session e => exact sessionTurn_cfg e s
  | present => rfl

/-- No step writes a parameter of the run (10_state.md R21). -/
theorem step_cfg {s t : State} (h : step s = .next t) : t.cfg = s.cfg := by
  rcases step_cases s with ⟨_, e⟩ | ⟨a, _, _, _, e⟩ | ⟨_, _, _, i, _, _, _, e⟩ | ⟨_, _, u, _, _, _, _, e⟩
  · cases e.symm.trans h
    rfl
  · cases e.symm.trans h
    exact runPlain_cfg a _
  · have hcfg := exec_cfg (e.symm.trans h)
    exact hcfg
  · cases e.symm.trans h
    exact runUndecoded_cfg u _

/-- Settles O44: every way `step` can go keeps `cfg`, by the rules above. -/
theorem noStepChangesTheParameters : Obligations.NoStepChangesTheParameters := fun _ _ h => step_cfg h

end Sys2Proof.Machine
end

section
/-! What the host's next action comes to in one step: a unit that decodes, and RESET (44_control_ops.md R230). -/

namespace Sys2Proof.Machine

/-- A step whose action is a unit that decodes executes the instruction on the state without that action. -/
theorem step_of_decodes {s : State} {a : HostAction} {rest : List HostAction} {u : CodeUnit} {i : Instr}
    (hp : s.pending = a :: rest) (hu : unitOf a = some u) (hd : decode s.cfg u = .ok i) :
    step s = exec i { s with pending := rest } := by
  simp only [step, takeAction, hp, runAction, hu, runUnit, hd]

/-- Settles O5: a write of `CMD` and a presented unit each give the decoder their unit. -/
theorem stepRunsTheDecodedInstruction : Obligations.StepRunsTheDecodedInstruction := fun _ _ _ =>
  ⟨fun _ hp hd => step_of_decodes hp rfl hd, fun _ _ hp hd => step_of_decodes hp rfl hd⟩

theorem step_of_reset {s : State} {rest : List HostAction} (hp : s.pending = .reset :: rest) :
    step s = .next (doReset { s with pending := rest }) := by
  simp only [step, takeAction, hp, runAction, unitOf, runPlain]

/-- RESET leaves neither `STATE` nor `MORE` in `STATUS` (10_state.md R30, R45). -/
@[simp] theorem statusWord_doReset (s : State) : statusWord (doReset s) = 0 := by
  have hmore : more (doReset s) = false := rfl
  rw [statusWord, hmore, doReset_st]
  decide

@[simp] theorem outlen_doReset (s : State) : outlen (doReset s) = 0 := rfl

/-- Settles O36: the state RESET leaves, field by field. -/
theorem resetFromAnyState : Obligations.ResetFromAnyState := by
  intro s rest hp
  have hchunk : s.cfg = Config.default → s.cfg.defaultChunk = 1440 := fun hc => by rw [hc]; rfl
  exact ⟨_, step_of_reset hp, rfl, statusWord_doReset _, rfl, rfl, rfl, rfl, outlen_doReset _, rfl, rfl, rfl, rfl,
    rfl, rfl, rfl, rfl, rfl, rfl, hchunk, rfl, rfl⟩

end Sys2Proof.Machine
end

section
/-! What the result of a successful operation command is like: the length of its queue (10_state.md R46) and the
ranges of the result registers it writes, where it writes any (R35 to R38). -/

namespace Sys2Proof.Machine

/-- The result registers a reply command writes are within the ranges of 10_state.md R35 to R38. -/
structure RegsInRange (g : ReplyRegs) : Prop where
  size : 4 ≤ g.rsize.toNat ∧ g.rsize.toNat ≤ 65535
  id : g.rrecid.toNat ≤ 65535
  cls : g.rclass.toNat ≤ 3
  code : g.rcode.toNat ≤ 65535

/-- The result of a command that writes no result register, on an input of `n` bytes. -/
structure PlainResult (n : Nat) (r : OpResult) : Prop where
  queue : r.outq.length ≤ max 65536 n
  reply : r.reply = none

/-- The result of REC.DEC or REC.CLS. -/
structure ReplyResult (r : OpResult) : Prop where
  queue : r.outq.length ≤ 1
  reply : ∀ g, r.reply = some g → RegsInRange g

/-- What both kinds of result have in common, and all that the invariants ask of a result. -/
structure ResultInRange (n : Nat) (r : OpResult) : Prop where
  queue : r.outq.length ≤ max 65536 n
  reply : ∀ g, r.reply = some g → RegsInRange g

theorem PlainResult.inRange {n : Nat} {r : OpResult} (h : PlainResult n r) : ResultInRange n r :=
  ⟨h.queue, fun g hg => by simp [h.reply] at hg⟩

theorem ReplyResult.inRange {r : OpResult} (h : ReplyResult r) (n : Nat) : ResultInRange n r :=
  ⟨by have := h.queue; omega, h.reply⟩

/-- A command that writes no result register. -/
def PlainOp (op : State → Except BlockFault OpResult) : Prop :=
  ∀ s r, op s = .ok r → PlainResult (inlen s) r

/-- A command that writes the result registers. -/
def ReplyOp (op : State → Except BlockFault OpResult) : Prop := ∀ s r, op s = .ok r → ReplyResult r

/-- A command that keeps the bounds of the invariants. -/
def OpInRange (op : State → Except BlockFault OpResult) : Prop :=
  ∀ s r, op s = .ok r → ResultInRange (inlen s) r

theorem PlainOp.inRange {op : State → Except BlockFault OpResult} (h : PlainOp op) : OpInRange op :=
  fun s r hr => (h s r hr).inRange

theorem ReplyOp.inRange {op : State → Except BlockFault OpResult} (h : ReplyOp op) : OpInRange op :=
  fun s r hr => (h s r hr).inRange _

/-! ### The seven commands that write no result register -/

theorem plainResult_singleton (n : Nat) (d : Datagram) : PlainResult n { outq := [d], reply := none } :=
  ⟨by simp, rfl⟩

theorem plainResult_map_range {n m : Nat} (f : Nat → Datagram) (h : m ≤ max 65536 n) :
    PlainResult n { outq := (List.range m).map f, reply := none } :=
  ⟨by simpa using h, rfl⟩

theorem recEncOp_plain : PlainOp recEncOp := by
  intro s r h
  simp only [recEncOp] at h
  split_ifs at h
  cases h
  exact plainResult_singleton _ _

theorem rleEncRowOp_plain : PlainOp rleEncRowOp := by
  intro s r h
  simp only [rleEncRowOp] at h
  split_ifs at h
  cases h
  exact plainResult_singleton _ _

theorem rleDecRowOp_plain : PlainOp rleDecRowOp := by
  intro s r h
  simp only [rleDecRowOp] at h
  split_ifs at h
  split at h
  · cases h
    exact plainResult_singleton _ _
  · cases h

/-- A raster has no more rows than bytes. -/
theorem rleEncImgOp_plain : PlainOp rleEncImgOp := by
  intro s r h
  simp only [rleEncImgOp] at h
  split_ifs at h
  cases h
  exact plainResult_map_range _ ((Nat.div_le_self _ _).trans (le_max_right _ _))

theorem imgPktRawOp_plain : PlainOp imgPktRawOp := by
  intro s r h
  simp only [imgPktRawOp] at h
  split_ifs at h with _ _ _ _ _ _ hcount
  cases h
  exact plainResult_map_range _ ((not_lt.1 hcount).trans (le_max_left _ _))

theorem imgPktRleOp_plain : PlainOp imgPktRleOp := by
  intro s r h
  simp only [imgPktRleOp] at h
  split_ifs at h with _ _ _ hcount _
  cases h
  exact plainResult_map_range _ (by omega)

theorem seqPktOp_plain : PlainOp seqPktOp := by
  intro s r h
  simp only [seqPktOp] at h
  split_ifs at h with _ hcount
  cases h
  exact plainResult_map_range _ (by omega)

/-! ### REC.DEC and REC.CLS -/

/-- A 16-bit field of a frame, as a register shows it. -/
theorem toNat_ofNat_rd16 (b : List Byte) (i : Nat) : (BitVec.ofNat 32 (rd16 b i)).toNat = rd16 b i := by
  have := rd16_lt b i
  simp only [BitVec.toNat_ofNat]
  omega

/-- The registers of a well-framed input: its size field is its length, which is at least 4 (60_exceptions.md R284). -/
theorem regsInRange_of_wellFramed {b : List Byte} (h : wellFramed b = true) {cls code : Word}
    (hcls : cls.toNat ≤ 3) (hcode : code.toNat ≤ 65535) :
    RegsInRange
      { rsize := BitVec.ofNat 32 (frameSize b), rrecid := BitVec.ofNat 32 (frameId b), rclass := cls
        rcode := code } := by
  obtain ⟨hlen, hsize⟩ := (wellFramed_iff b).1 h
  have hsize_lt := rd16_lt b 0
  have hid_lt := rd16_lt b 2
  exact ⟨by simp only [toNat_ofNat_rd16]; omega, by simp only [toNat_ofNat_rd16]; omega, hcls, hcode⟩

theorem replyClass_le (a : BitVec 16) (b : List Byte) : (replyClass a b).toNat ≤ 3 := by
  unfold replyClass classOfCode
  split_ifs <;> decide

theorem replyCode_le (a : BitVec 16) (b : List Byte) : (replyCode a b).toNat ≤ 65535 := by
  have hcode_lt := rd16_lt b 4
  unfold replyCode
  split_ifs
  · rw [toNat_ofNat_rd16]
    omega
  · decide

theorem recDecOp_reply : ReplyOp recDecOp := by
  intro s r h
  simp only [recDecOp] at h
  split_ifs at h with hframed
  cases h
  refine ⟨by simp, fun g hg => ?_⟩
  cases hg
  exact regsInRange_of_wellFramed hframed (by decide) (by decide)

theorem recClsOp_reply : ReplyOp recClsOp := by
  intro s r h
  simp only [recClsOp] at h
  split_ifs at h with hframed hunknown
  all_goals
    cases h
    refine ⟨by simp, fun g hg => ?_⟩
    cases hg
    exact regsInRange_of_wellFramed hframed (replyClass_le _ _) (replyCode_le _ _)

/-! ### The meaning of every instruction, by kind of operation -/

/-- Everything an instruction can do, with the kind of operation each command is (44_control_ops.md R230 to R235;
log 2). -/
theorem exec_kinds (i : Instr) (s : State) :
    (i = .nop ∧ exec i s = .next s)
      ∨ (i = .clr ∧ exec i s = .next (clear s))
      ∨ (i = .next ∧ exec i s = .next (pullNext s))
      ∨ (∃ op, PlainOp op ∧ exec i s = .next (runOp op s))
      ∨ (∃ op, ReplyOp op ∧ (i = .recDec ∨ i = .recCls) ∧ exec i s = .next (runOp op s))
      ∨ (isCommand i = false ∧ ∃ f b, exec i s = .next (presentBytes (consumerOf f) b s)) := by
  have plain : ∀ {op}, PlainOp op → exec i s = .next (runOp op s) →
      ∃ op, PlainOp op ∧ exec i s = .next (runOp op s) := fun hop e => ⟨_, hop, e⟩
  have unit : ∀ f b, isCommand i = false → exec i s = .next (presentBytes (consumerOf f) b s) →
      isCommand i = false ∧ ∃ f b, exec i s = .next (presentBytes (consumerOf f) b s) :=
    fun f b hi e => ⟨hi, f, b, e⟩
  cases i with
  | nop => exact .inl ⟨rfl, rfl⟩
  | clr => exact .inr (.inl ⟨rfl, rfl⟩)
  | next => exact .inr (.inr (.inl ⟨rfl, rfl⟩))
  | recEnc => exact .inr (.inr (.inr (.inl (plain recEncOp_plain rfl))))
  | rleEncRow => exact .inr (.inr (.inr (.inl (plain rleEncRowOp_plain rfl))))
  | rleDecRow => exact .inr (.inr (.inr (.inl (plain rleDecRowOp_plain rfl))))
  | rleEncImg => exact .inr (.inr (.inr (.inl (plain rleEncImgOp_plain rfl))))
  | imgPktRaw => exact .inr (.inr (.inr (.inl (plain imgPktRawOp_plain rfl))))
  | imgPktRle => exact .inr (.inr (.inr (.inl (plain imgPktRleOp_plain rfl))))
  | seqPkt => exact .inr (.inr (.inr (.inl (plain seqPktOp_plain rfl))))
  | recDec => exact .inr (.inr (.inr (.inr (.inl ⟨_, recDecOp_reply, .inl rfl, rfl⟩))))
  | recCls => exact .inr (.inr (.inr (.inr (.inl ⟨_, recClsOp_reply, .inr rfl, rfl⟩))))
  | frameRecord => exact .inr (.inr (.inr (.inr (.inr (unit .frameRecord _ rfl rfl)))))
  | frameAck => exact .inr (.inr (.inr (.inr (.inr (unit .frameAck _ rfl rfl)))))
  | descRle | descRaw => exact .inr (.inr (.inr (.inr (.inr (unit .desc16 _ rfl rfl)))))
  | pktImgRaw => exact .inr (.inr (.inr (.inr (.inr (unit .pktImgRaw _ rfl rfl)))))
  | pktImgRle => exact .inr (.inr (.inr (.inr (.inr (unit .pktImgRle _ rfl rfl)))))
  | chunkSeq => exact .inr (.inr (.inr (.inr (.inr (unit .chunkSeq _ rfl rfl)))))

end Sys2Proof.Machine
end

section
/-! The frame of the twelve commands (10_state.md R23, R35 to R38; 20_memory.md R76). -/

namespace Sys2Proof.Machine

/-- What the command `i` keeps from `s` to `t`. -/
structure CommandFrame (i : Instr) (s t : State) : Prop where
  inputs : SameInputs s t
  host : SameHost s t
  reply : i ≠ .recDec → i ≠ .recCls → SameReply s t
  faultKeepsReply : t.st = .fault → SameReply s t
  handed : i ≠ .next → t.handed = s.handed

theorem runOp_sameInputs (op : State → Except BlockFault OpResult) (s : State) : SameInputs s (runOp op s) :=
  ⟨runOp_recid op s, runOp_inum op s, runOp_width op s, runOp_lpp op s, runOp_chunk op s, runOp_cfg op s,
    runOp_inBuf op s⟩

theorem runOp_sameHost (op : State → Except BlockFault OpResult) (s : State) : SameHost s (runOp op s) :=
  ⟨runOp_pending op s, runOp_reads op s, runOp_session op s, runOp_reports op s⟩

/-- An operation command keeps the result registers where its last act does. -/
theorem runOp_sameReply {op : State → Except BlockFault OpResult} {s : State}
    (h : ∀ r, op s = .ok r → runOp op s = finish r s → SameReply s (finish r s)) : SameReply s (runOp op s) := by
  rcases runOp_cases op s with ⟨r, _, hr, e⟩ | ⟨f, _, _, e⟩ | ⟨_, e⟩ | ⟨_, e⟩
  · exact e ▸ h r hr e
  all_goals
    rw [e]
    exact ⟨rfl, rfl, rfl, rfl⟩

theorem runOp_sameReply_of_plain {op : State → Except BlockFault OpResult} (hop : PlainOp op) (s : State) :
    SameReply s (runOp op s) :=
  runOp_sameReply fun r hr _ => by
    obtain ⟨-, hnone⟩ := hop s r hr
    constructor <;> simp [finish, writeReply, hnone]

/-- A command that ends in FAULT has not come to its last act. -/
theorem runOp_sameReply_of_fault {op : State → Except BlockFault OpResult} {s : State}
    (hf : (runOp op s).st = .fault) : SameReply s (runOp op s) :=
  runOp_sameReply fun r _ e => by simp [e] at hf

theorem pullNext_sameInputs (s : State) : SameInputs s (pullNext s) :=
  ⟨pullNext_recid s, pullNext_inum s, pullNext_width s, pullNext_lpp s, pullNext_chunk s, pullNext_cfg s,
    pullNext_inBuf s⟩

theorem pullNext_sameHost (s : State) : SameHost s (pullNext s) :=
  ⟨pullNext_pending s, pullNext_reads s, pullNext_session s, pullNext_reports s⟩

theorem pullNext_sameReply (s : State) : SameReply s (pullNext s) :=
  ⟨pullNext_rsize s, pullNext_rrecid s, pullNext_rclass s, pullNext_rcode s⟩

/-- Each kind of command has the frame. -/
theorem exec_commandFrame {i : Instr} {s t : State} (hi : isCommand i = true) (h : exec i s = .next t) :
    CommandFrame i s t := by
  have sameReply : SameReply s s := ⟨rfl, rfl, rfl, rfl⟩
  have sameReply_clear : SameReply s (clear s) := ⟨rfl, rfl, rfl, rfl⟩
  rcases exec_kinds i s with ⟨_, e⟩ | ⟨_, e⟩ | ⟨hn, e⟩ | ⟨op, hop, e⟩ | ⟨op, _, hr, e⟩ | ⟨hn, _⟩
  · cases e.symm.trans h
    exact ⟨⟨rfl, rfl, rfl, rfl, rfl, rfl, rfl⟩, ⟨rfl, rfl, rfl, rfl⟩, fun _ _ => sameReply, fun _ => sameReply,
      fun _ => rfl⟩
  · cases e.symm.trans h
    exact ⟨⟨rfl, rfl, rfl, rfl, rfl, rfl, rfl⟩, ⟨rfl, rfl, rfl, rfl⟩, fun _ _ => sameReply_clear,
      fun _ => sameReply_clear, fun _ => rfl⟩
  · cases e.symm.trans h
    exact ⟨pullNext_sameInputs s, pullNext_sameHost s, fun _ _ => pullNext_sameReply s,
      fun _ => pullNext_sameReply s, fun hnext => absurd hn hnext⟩
  · cases e.symm.trans h
    exact ⟨runOp_sameInputs op s, runOp_sameHost op s, fun _ _ => runOp_sameReply_of_plain hop s,
      runOp_sameReply_of_fault, fun _ => runOp_handed op s⟩
  · cases e.symm.trans h
    exact ⟨runOp_sameInputs op s, runOp_sameHost op s, fun hdec hcls => (hr.elim hdec hcls).elim,
      runOp_sameReply_of_fault, fun _ => runOp_handed op s⟩
  · simp [hi] at hn

/-- Settles O45, from the kind of operation each command is. -/
theorem commandFrames : Obligations.CommandFrames := by
  intro i s t hi h
  obtain ⟨inputs, host, reply, faultKeepsReply, handed⟩ := exec_commandFrame hi h
  exact ⟨inputs, host, reply, faultKeepsReply, handed⟩

end Sys2Proof.Machine
end

section
/-! The block keeps its invariants (10_state.md R46): one rule per shared operation, each as a `BlockStep`, which
composes, and from these the commands, the register writes and the sequences of commands a session issues. -/

namespace Sys2Proof.Machine

/-! ### The invariants and the shared operations -/

/-- The state with the host's side of the interface left out. -/
def hostErased (s : State) : State :=
  { s with pending := [], handed := [], reads := [], session := none, reports := [] }

/-- The block's invariants speak of the block alone. -/
theorem blockInv_hostErased (s : State) : BlockInv (hostErased s) ↔ BlockInv s :=
  ⟨fun h => { h with }, fun h => { h with }⟩

theorem BlockInv.of_hostErased {s t : State} (h : BlockInv s) (e : hostErased t = hostErased s) : BlockInv t :=
  (blockInv_hostErased t).1 (e ▸ (blockInv_hostErased s).2 h)

theorem faultCodeOf_ne_zero (f : BlockFault) : faultCodeOf f ≠ 0 := by
  cases f <;> simp [faultCodeOf]

theorem faultCodeOf_le (f : BlockFault) : (faultCodeOf f).toNat ≤ 8 := by
  cases f <;> simp [faultCodeOf]

theorem paramNumber_ne_zero (p : ParamId) : paramNumber p ≠ 0 := by
  cases p <;> decide

theorem faultParamOf_le (f : BlockFault) : (faultParamOf f).toNat ≤ 10 := by
  cases f with
  | invalidParameter p => cases p <;> decide
  | _ => decide

/-- A parameter id stands beside InvalidParameter and beside no other code (60_exceptions.md R282). -/
theorem faultCodeOf_eq_one_iff (f : BlockFault) : faultCodeOf f = 1 ↔ faultParamOf f ≠ 0 := by
  cases f with
  | invalidParameter p => exact ⟨fun _ => paramNumber_ne_zero p, fun _ => rfl⟩
  | _ => decide

theorem blockInv_faulted {s : State} (h : BlockInv s) (f : BlockFault) :
    BlockInv (faulted (faultCodeOf f) (faultParamOf f) s) :=
  { h with
    cursor := le_rfl
    faultExactly := ⟨fun _ => faultCodeOf_ne_zero f, fun _ => rfl⟩
    queueOnlyReady := fun _ => rfl
    queueBound := Nat.zero_le _
    codeRange := faultCodeOf_le f
    paramRange := faultParamOf_le f
    paramExactly := faultCodeOf_eq_one_iff f }

theorem blockInv_clear {s : State} (h : BlockInv s) : BlockInv (clear s) :=
  { h with
    cursor := le_rfl
    faultExactly := by simp
    queueOnlyReady := fun _ => rfl
    queueBound := Nat.zero_le _
    codeRange := Nat.zero_le _
    paramRange := Nat.zero_le _
    paramExactly := by simp }

/-- After RESET every register is 0 but `CHUNK`, whose reset value is to be within its width. -/
theorem blockInv_doReset {s : State} (h : s.cfg.defaultChunk.toNat < 2 ^ s.cfg.paramBits) : BlockInv (doReset s) where
  cursor := le_rfl
  faultExactly := by simp [State.reset]
  queueOnlyReady := fun _ => rfl
  queueBound := Nat.zero_le _
  codeRange := Nat.zero_le _
  paramRange := Nat.zero_le _
  paramExactly := by simp [State.reset]
  sizeRange := .inl rfl
  idRange := Nat.zero_le _
  classRange := Nat.zero_le _
  codeFieldRange := Nat.zero_le _
  paramWidth := by simpa [State.reset] using h

theorem blockInv_cursor {s : State} (h : BlockInv s) {n : Nat} (hn : n ≤ outcnt s) :
    BlockInv { s with outidx := n } :=
  { h with cursor := hn }

/-- The queue is empty in IDLE, so a new input does not break its bound. -/
theorem blockInv_load {s : State} (h : BlockInv s) (hs : s.st = .idle) (b : List Byte) :
    BlockInv { s with inBuf := b } :=
  { h with
    queueBound := by
      have hempty : outcnt s = 0 := by simp [h.queueOnlyReady (by simp [hs])]
      exact hempty.trans_le (Nat.zero_le _) }

/-- A command's last act, from IDLE, where `FAULT.CODE` is 0. -/
theorem blockInv_finish {s : State} (h : BlockInv s) (hs : s.st = .idle) {r : OpResult}
    (hr : ResultInRange (inlen s) r) : BlockInv (finish r s) := by
  have hcode : s.faultCode = 0 := by
    by_contra hne
    simpa [hs] using h.faultExactly.2 hne
  obtain ⟨q, reply⟩ := r
  cases reply with
  | none =>
    exact { h with
      cursor := Nat.zero_le _
      faultExactly := by simp [hcode]
      queueOnlyReady := by simp
      queueBound := hr.queue }
  | some g =>
    obtain ⟨hsize, hid, hcls, hfield⟩ := hr.reply g rfl
    exact { h with
      cursor := Nat.zero_le _
      faultExactly := by simp [hcode]
      queueOnlyReady := by simp
      queueBound := hr.queue
      sizeRange := .inr hsize
      idRange := hid
      classRange := hcls
      codeFieldRange := hfield }

/-! ### Steps of the block -/

/-- Between `s` and `t` only the block has acted, and it has kept its invariants. -/
structure BlockStep (s t : State) : Prop where
  keeps : BlockInv s → BlockInv t
  cfg : t.cfg = s.cfg
  session : t.session = s.session
  reports : t.reports = s.reports

theorem BlockStep.refl (s : State) : BlockStep s s := ⟨id, rfl, rfl, rfl⟩

theorem BlockStep.trans {s t u : State} (h : BlockStep s t) (k : BlockStep t u) : BlockStep s u :=
  ⟨k.keeps ∘ h.keeps, k.cfg.trans h.cfg, k.session.trans h.session, k.reports.trans h.reports⟩

/-- The host takes an action from its list. -/
theorem blockStep_pending (s : State) (rest : List HostAction) : BlockStep s { s with pending := rest } :=
  ⟨fun h => h.of_hostErased rfl, rfl, rfl, rfl⟩

theorem blockStep_faulted (f : BlockFault) (s : State) :
    BlockStep s (faulted (faultCodeOf f) (faultParamOf f) s) :=
  ⟨fun h => blockInv_faulted h f, rfl, rfl, rfl⟩

theorem blockStep_raise (f : BlockFault) (s : State) : BlockStep s (raise f s) := by
  by_cases hs : s.st = .fault
  · rw [raise_of_fault f s hs]
    exact .refl s
  · rw [raise_of_not_fault f s hs]
    exact blockStep_faulted f s

theorem blockStep_clear (s : State) : BlockStep s (clear s) := ⟨blockInv_clear, rfl, rfl, rfl⟩

theorem blockStep_doReset (s : State) : BlockStep s (doReset s) :=
  ⟨fun h => blockInv_doReset (h.paramWidth _ (by simp)), rfl, rfl, rfl⟩

theorem blockStep_doRead (offset : Nat) (s : State) : BlockStep s (doRead offset s) :=
  ⟨fun h => h.of_hostErased rfl, rfl, rfl, rfl⟩

theorem blockStep_runOp {op : State → Except BlockFault OpResult} (hop : OpInRange op) (s : State) :
    BlockStep s (runOp op s) := by
  rcases runOp_cases op s with ⟨r, hs, hr, e⟩ | ⟨f, _, _, e⟩ | ⟨_, e⟩ | ⟨_, e⟩ <;> rw [e]
  · exact ⟨fun h => blockInv_finish h hs (hop s r hr), by simp, by simp, by simp⟩
  · exact blockStep_faulted f s
  · exact blockStep_faulted .protocolViolation s
  · exact .refl s

theorem blockStep_doLoad (b : List Byte) (s : State) : BlockStep s (doLoad b s) := by
  rcases doLoad_cases b s with ⟨hs, _, e⟩ | ⟨_, _, e⟩ | ⟨_, e⟩ | ⟨_, e⟩ <;> rw [e]
  · exact ⟨fun h => blockInv_load h hs b, rfl, rfl, rfl⟩
  · exact blockStep_faulted .bufferOverflow s
  · exact blockStep_faulted .protocolViolation s
  · exact .refl s

theorem blockStep_pullNext (s : State) : BlockStep s (pullNext s) := by
  rcases pullNext_cases s with ⟨_, hm, e⟩ | ⟨_, _, e⟩ | ⟨_, e⟩ | ⟨_, e⟩ <;> rw [e]
  · exact ⟨fun h => (blockInv_cursor h (Nat.succ_le_of_lt hm)).of_hostErased rfl, rfl, rfl, rfl⟩
  · exact blockStep_faulted .protocolViolation s
  · exact blockStep_faulted .protocolViolation s
  · exact .refl s

theorem blockStep_doSeek (v : Word) (s : State) : BlockStep s (doSeek v s) := by
  rcases doSeek_cases v s with ⟨_, hm, e⟩ | ⟨_, _, e⟩ | ⟨_, e⟩ | ⟨_, e⟩ <;> rw [e]
  · exact ⟨fun h => blockInv_cursor h hm, rfl, rfl, rfl⟩
  · exact blockStep_faulted .protocolViolation s
  · exact blockStep_faulted .protocolViolation s
  · exact .refl s

theorem blockStep_doSet {write : State → State} {s : State} (hw : BlockStep s (write s)) :
    BlockStep s (doSet write s) := by
  rcases doSet_cases write s with ⟨_, e⟩ | ⟨_, e⟩ | ⟨_, e⟩ <;> rw [e]
  · exact hw
  · exact blockStep_faulted .protocolViolation s
  · exact .refl s

/-! ### Commands, register writes and the sequences of commands a session issues -/

/-- A SET keeps the registers' width, because `fitParam` is within it. -/
theorem blockStep_writeReg (v : Word) (r : Reg) (s : State) : BlockStep s (writeReg v r s) := by
  cases r with
  | outidx => exact blockStep_doSeek v s
  | recid | inum | width | lpp | chunk =>
    unfold writeReg
    refine blockStep_doSet ?_
    refine ⟨fun h => { h with paramWidth := ?_ }, rfl, rfl, rfl⟩
    have hfit := fitParam_lt s.cfg v
    have hwidth := h.paramWidth
    simp only [List.forall_mem_cons] at hwidth ⊢
    tauto
  | cmd | status | fault | outcnt | outlen | inlen | rsize | rrecid | rclass | rcode => exact .refl s

theorem blockStep_writeAt (offset : Nat) (v : Word) (s : State) : BlockStep s (writeAt offset v s) := by
  unfold writeAt
  split
  · exact blockStep_writeReg v _ s
  · exact .refl s

theorem blockStep_consumerOf (f : WireFormat) (s : State) : BlockStep s (consumerOf f s) := by
  cases f with
  | frameRecord | pktImgRle | chunkSeq => exact blockStep_runOp recDecOp_reply.inRange s
  | frameAck => exact blockStep_runOp recClsOp_reply.inRange s
  | desc16 => exact blockStep_runOp rleDecRowOp_plain.inRange s
  | pktImgRaw => exact .refl s

theorem blockStep_presentBytes (f : WireFormat) (b : List Byte) (s : State) :
    BlockStep s (presentBytes (consumerOf f) b s) :=
  (blockStep_doLoad b s).trans (blockStep_consumerOf f _)

theorem blockStep_exec {i : Instr} {s t : State} (h : exec i s = .next t) : BlockStep s t := by
  rcases exec_kinds i s with ⟨_, e⟩ | ⟨_, e⟩ | ⟨_, e⟩ | ⟨op, hop, e⟩ | ⟨op, hop, _, e⟩ | ⟨_, f, b, e⟩ <;>
    cases e.symm.trans h
  · exact .refl s
  · exact blockStep_clear s
  · exact blockStep_pullNext s
  · exact blockStep_runOp hop.inRange s
  · exact blockStep_runOp hop.inRange s
  · exact blockStep_presentBytes f b s

theorem blockStep_runUndecoded (u : CodeUnit) (s : State) : BlockStep s (runUndecoded u s) := by
  cases u with
  | cmd _ => exact blockStep_raise .illegalOperation s
  | wire f b => exact blockStep_presentBytes f b s

theorem blockStep_runRecCls (s : State) : BlockStep s (runRecCls s) := blockStep_runOp recClsOp_reply.inRange s

theorem blockStep_runPacketizer (k : Packetizer) (s : State) : BlockStep s (runPacketizer k s) := by
  cases k with
  | imgRaw => exact blockStep_runOp imgPktRawOp_plain.inRange s
  | imgRle => exact blockStep_runOp imgPktRleOp_plain.inRange s
  | seq => exact blockStep_runOp seqPktOp_plain.inRange s

theorem blockStep_packetizeData (plan : SessionPlan) (s : State) : BlockStep s (packetizeData plan s) :=
  (blockStep_doLoad _ s).trans (blockStep_runPacketizer _ _)

/-- SET of `RECID`, LOAD, REC.ENC. -/
theorem blockStep_encodeRecord (r : CommandRecord) (s : State) : BlockStep s (encodeRecord r s) :=
  ((blockStep_writeReg r.recordId .recid s).trans (blockStep_doLoad _ _)).trans
    (blockStep_runOp recEncOp_plain.inRange _)

end Sys2Proof.Machine
end

section
/-! What a session's own invariants come to while it lives and when it ends (46_host_transfer_session.md R251 to
R262). -/

namespace Sys2Proof.Machine

/-- The invariants of a session that has not ended, which has no failure. -/
structure LiveInv (c : BlockConfig) (ss : Session) : Prop where
  running : terminal ss.phase = false
  noFailure : ss.failure = none
  retriesCapped : ss.retries ≤ retryCap c
  waitingPhase : ss.inFlight = true → ss.phase = .priming ∨ ss.phase = .verifying
  keptRequest : ss.phase = .transferring ∨ ss.phase = .verifying ∨ ss.phase = .repairing →
    ss.gapFrame = frameOf c ss.plan.gapRequest
  transportFixed : ss.transport = { toEndpoints := ss.plan.endpoints, timeout := c.cmdTimeout }

theorem terminal_eq_false_iff (p : Phase) : terminal p = false ↔ p ≠ .complete ∧ p ≠ .failed := by
  simp [terminal]

theorem liveInv_iff (c : BlockConfig) (ss : Session) :
    LiveInv c ss ↔ SessionInv c ss ∧ terminal ss.phase = false := by
  constructor
  · intro h
    obtain ⟨-, hnotFailed⟩ := (terminal_eq_false_iff _).1 h.running
    exact ⟨{ h with
      failureExactly := by simp [h.noFailure, hnotFailed]
      incompleteAtCap := by simp [h.noFailure] }, h.running⟩
  · rintro ⟨h, hrunning⟩
    obtain ⟨-, hnotFailed⟩ := (terminal_eq_false_iff _).1 hrunning
    exact { h with
      running := hrunning
      noFailure := by simpa using mt h.failureExactly.1 hnotFailed }

section
variable {c : BlockConfig} {ss : Session}

/-! ### How a session ends -/

theorem LiveInv.failed (h : LiveInv c ss) {f : SessionFailure}
    (hcap : f = .transferIncomplete → ss.retries = retryCap c) :
    SessionInv c { ss with phase := .failed, failure := some f, inFlight := false } :=
  { h with
    failureExactly := by simp
    waitingPhase := by simp
    incompleteAtCap := fun hf => hcap (Option.some.inj hf)
    keptRequest := by simp }

theorem LiveInv.completed (h : LiveInv c ss) : SessionInv c { ss with phase := .complete, inFlight := false } :=
  { h with
    failureExactly := by simp [h.noFailure]
    waitingPhase := by simp
    incompleteAtCap := by simp [h.noFailure]
    keptRequest := by simp }

theorem LiveInv.aborted (h : LiveInv c ss) : SessionInv c { ss with inFlight := false } :=
  { ((liveInv_iff c ss).1 h).1 with waitingPhase := by simp }

/-! ### How a session goes on -/

theorem liveInv_newSession (c : BlockConfig) (plan : SessionPlan) : LiveInv c (newSession c plan) where
  running := rfl
  noFailure := rfl
  retriesCapped := Nat.zero_le _
  waitingPhase := by simp [newSession]
  keptRequest := by simp [newSession]
  transportFixed := rfl

theorem LiveInv.sendRequest (h : LiveInv c ss) (hp : ss.phase = .priming ∨ ss.phase = .verifying)
    (frame : Datagram) : LiveInv c (sendRequest frame ss) :=
  { h with waitingPhase := fun _ => hp }

/-- Into `Priming`, and from record to record there. -/
theorem LiveInv.priming (h : LiveInv c ss) (left : List CommandRecord) :
    LiveInv c { ss with phase := .priming, left := left } :=
  { h with
    running := rfl
    waitingPhase := fun _ => .inl rfl
    keptRequest := by simp }

/-- The gap request's frame is kept from here on (46_host_transfer_session.md R260). -/
theorem LiveInv.keepRequest (h : LiveInv c ss) :
    LiveInv c { ss with gapFrame := frameOf c ss.plan.gapRequest } :=
  { h with keptRequest := fun _ => rfl }

theorem LiveInv.transferring (h : LiveInv c ss) (hgap : ss.gapFrame = frameOf c ss.plan.gapRequest) :
    LiveInv c { ss with phase := .transferring, left := [], inFlight := false } :=
  { h with
    running := rfl
    waitingPhase := by simp
    keptRequest := fun _ => hgap }

theorem LiveInv.verifying (h : LiveInv c ss) (hp : ss.phase = .transferring ∨ ss.phase = .repairing) (n : Nat) :
    LiveInv c { ss with sent := n, phase := .verifying } :=
  { h with
    running := rfl
    waitingPhase := fun _ => .inr rfl
    keptRequest := fun _ => h.keptRequest (by tauto) }

theorem LiveInv.sendData (h : LiveInv c ss) (d : Datagram) : LiveInv c { ss with dataTx := ss.dataTx ++ [d] } :=
  { h with }

/-- A repair counts one retry, below the cap (46_host_transfer_session.md R259). -/
theorem LiveInv.repairing (h : LiveInv c ss) (hp : ss.phase = .verifying) (hcap : ss.retries ≠ retryCap c) :
    LiveInv c { ss with phase := .repairing, retries := ss.retries + 1, inFlight := false } :=
  { h with
    running := rfl
    retriesCapped := lt_of_le_of_ne h.retriesCapped hcap
    waitingPhase := by simp
    keptRequest := fun _ => h.keptRequest (by tauto) }

end

end Sys2Proof.Machine
end

section
/-! Every turn of a session keeps the invariants (46_host_transfer_session.md R250 to R263). A turn starts from a
state and a session in it (`Running`); block steps and changes of the session keep that, and the turn closes with the
session held again or ended. -/

namespace Sys2Proof.Machine

/-- The state meets the invariants, and `ss` those of a live session under its parameters. -/
structure Running (ss : Session) (s : State) : Prop where
  machine : MachineInv s
  live : LiveInv s.cfg ss

theorem BlockStep.machineInv {s t : State} (hb : BlockStep s t) (h : MachineInv s) : MachineInv t where
  block := hb.keeps h.block
  session := by rw [hb.session, hb.cfg]; exact h.session
  reports := by rw [hb.reports, hb.cfg]; exact h.reports

theorem BlockStep.running {ss : Session} {s t : State} (hb : BlockStep s t) (h : Running ss s) : Running ss t :=
  ⟨hb.machineInv h.machine, by rw [hb.cfg]; exact h.live⟩

section
variable {ss : Session} {s : State}

/-! ### How a turn closes -/

theorem Running.withSession (h : Running ss s) : MachineInv (withSession ss s) where
  block := h.machine.block.of_hostErased rfl
  session := by
    intro ss' hss
    cases hss
    exact (liveInv_iff _ _).1 h.live
  reports := h.machine.reports

/-- The session that ends is reported with the phase it was in, which was not terminal. -/
theorem Running.endSession (h : Running ss s) {ended : Session} (hended : SessionInv s.cfg ended) :
    MachineInv (endSession ss ended s) where
  block := (blockInv_clear h.machine.block).of_hostErased rfl
  session := by simp
  reports := by
    intro r hr
    rcases List.mem_append.1 hr with hold | hnew
    · exact h.machine.reports r hold
    · rcases List.mem_singleton.1 hnew with rfl
      exact ⟨hended, h.live.running⟩

theorem Running.failSession (h : Running ss s) {f : SessionFailure}
    (hcap : f = .transferIncomplete → ss.retries = retryCap s.cfg) : MachineInv (failSession f ss s) :=
  h.endSession (h.live.failed hcap)

theorem Running.transportError (h : Running ss s) : MachineInv (Machine.failSession .transportError ss s) :=
  h.failSession nofun

/-! ### Making a frame -/

/-- Outside IDLE no frame is made. -/
theorem encodeRecord_of_not_idle {r : CommandRecord} (hs : s.st ≠ .idle) : (encodeRecord r s).st = .fault := by
  have hset : ∀ write, (doSet write s).st = .fault := fun write => by
    rcases doSet_cases write s with ⟨hi, _⟩ | ⟨_, e⟩ | ⟨hf, e⟩
    · exact absurd hi hs
    · rw [e, faulted_st]
    · rw [e, hf]
  have hload : ∀ t : State, t.st = .fault → doLoad r.payload t = t := fun t ht => by simp [doLoad, ht]
  rw [encodeRecord, hload _ (hset _), runRecEnc, runOp_fault (hset _), hset]

/-- REC.ENC succeeds from IDLE with a record that has a frame, and then the frame is the queue. -/
theorem encodeRecord_of_ready {r : CommandRecord} (ht : (encodeRecord r s).st = .ready) :
    encodeRecord r s = produced [frameOf s.cfg r] (withRecord r s) := by
  by_cases hs : s.st = .idle
  · by_cases hr : Encodable s.cfg r
    · exact encodeRecord_of_encodable hs hr
    · simp [encodeRecord_of_not_encodable hs hr] at ht
  · simp [encodeRecord_of_not_idle hs] at ht

/-- Either the frame is made and the turn goes on with it after NEXT and CLR, or the session fails. -/
theorem makeFrame_keeps {r : CommandRecord} {go : Datagram → State → State} (h : Running ss s)
    (hgo : ∀ t, BlockStep s t → MachineInv (go (frameOf s.cfg r) t)) : MachineInv (makeFrame r ss go s) := by
  have hb := blockStep_encodeRecord r s
  unfold makeFrame
  dsimp only
  split
  next ht =>
    have hframe : (encodeRecord r s).outq.getD (encodeRecord r s).outidx [] = frameOf s.cfg r := by
      rw [encodeRecord_of_ready ht]
      rfl
    rw [hframe]
    exact hgo _ ((hb.trans (blockStep_pullNext _)).trans (blockStep_clear _))
  all_goals exact (hb.running h).transportError

theorem issueRecord_keeps {r : CommandRecord} {after : Session} (h : Running ss s) (ha : LiveInv s.cfg after)
    (hp : after.phase = .priming ∨ after.phase = .verifying) : MachineInv (issueRecord r after ss s) :=
  makeFrame_keeps h fun _ hb => (hb.running ⟨h.machine, ha.sendRequest hp _⟩).withSession

/-! ### The turns, phase by phase -/

theorem startSession_keeps (h : Running ss s) : MachineInv (startSession ss s) := by
  have hb := blockStep_packetizeData ss.plan s
  unfold startSession
  dsimp only
  split
  · have hrun := (hb.trans (blockStep_clear _)).running h
    exact issueRecord_keeps hrun (hrun.live.priming _) (.inl rfl)
  all_goals exact hb.machineInv h.machine

theorem beginBurst_keeps (h : Running ss s) (hgap : ss.gapFrame = frameOf s.cfg ss.plan.gapRequest) :
    MachineInv (beginBurst ss s) := by
  have hb := blockStep_packetizeData ss.plan s
  unfold beginBurst
  dsimp only
  split
  · exact (hb.running ⟨h.machine, h.live.transferring hgap⟩).withSession
  all_goals exact (hb.running h).transportError

theorem primingOk_keeps (h : Running ss s) (hp : ss.phase = .priming) : MachineInv (primingOk ss s) := by
  unfold primingOk
  split
  · exact makeFrame_keeps h fun t hb => beginBurst_keeps (hb.running ⟨h.machine, h.live.keepRequest⟩) (by rw [hb.cfg])
  · exact issueRecord_keeps h (by simpa [← hp] using h.live.priming _) (.inl hp)

theorem primingReply_keeps (h : Running ss s) (hp : ss.phase = .priming) (b : Datagram) :
    MachineInv (primingReply b ss s) := by
  have hload := blockStep_doLoad b s
  have hcls := hload.trans (blockStep_runRecCls _)
  unfold primingReply
  dsimp only
  split
  · split
    · exact primingOk_keeps ((hcls.trans (blockStep_clear _)).running h) hp
    · exact (hcls.running h).failSession nofun
  all_goals exact (hload.running h).transportError

theorem beginRepair_keeps (h : Running ss s) (hp : ss.phase = .verifying) (hcap : ss.retries ≠ retryCap s.cfg)
    (g : Nat) : MachineInv (beginRepair g ss s) := by
  have hrun := (blockStep_doSeek (BitVec.ofNat 32 g) s).running ⟨h.machine, h.live.repairing hp hcap⟩
  unfold beginRepair
  dsimp only
  split
  · exact hrun.withSession
  all_goals exact hrun.transportError

theorem gapTest_keeps (h : Running ss s) (hp : ss.phase = .verifying) (g : Nat) : MachineInv (gapTest g ss s) := by
  unfold gapTest
  split_ifs with _ _ hcap
  · have hrun := (blockStep_clear s).running h
    exact issueRecord_keeps hrun { hrun.live with } (.inr hp)
  · exact h.failSession fun _ => hcap
  · exact beginRepair_keeps h hp hcap g
  · exact h.transportError

theorem finalReply_keeps (h : Running ss s) (b : Datagram) : MachineInv (finalReply b ss s) := by
  have hrun := ((blockStep_doLoad b s).trans (blockStep_runRecCls _)).running h
  unfold finalReply
  dsimp only
  split
  · exact hrun.endSession hrun.live.completed
  all_goals exact hrun.transportError

theorem verifyingReply_keeps (h : Running ss s) (hp : ss.phase = .verifying) (b : Datagram) :
    MachineInv (verifyingReply b ss s) := by
  unfold verifyingReply
  split_ifs
  · exact finalReply_keeps h b
  · exact gapTest_keeps h hp _
  · exact h.transportError

theorem sessionReply_keeps (h : Running ss s) (b : Datagram) : MachineInv (sessionReply b ss s) := by
  unfold sessionReply
  split
  · split
    next hp => exact primingReply_keeps h hp b
    next hp => exact verifyingReply_keeps h hp b
    all_goals exact h.machine
  · exact h.machine

theorem burstTurn_keeps {after : Session → Session} (h : Running ss s)
    (ha : LiveInv s.cfg { after ss with phase := .verifying }) : MachineInv (burstTurn after ss s) := by
  unfold burstTurn
  split
  · split
    · exact ((blockStep_pullNext s).running ⟨h.machine, h.live.sendData _⟩).withSession
    · exact Running.withSession ⟨h.machine, ha.sendRequest (.inr rfl) _⟩
  all_goals exact h.transportError

theorem sessionAdvance_keeps (h : Running ss s) : MachineInv (sessionAdvance ss s) := by
  unfold sessionAdvance
  split
  next hp => exact burstTurn_keeps h (h.live.verifying (.inl hp) _)
  next hp => exact burstTurn_keeps h (h.live.verifying (.inr hp) ss.sent)
  all_goals exact h.machine

theorem sessionEvent_keeps (h : Running ss s) (e : SessionEvent) : MachineInv (sessionEvent e ss s) := by
  unfold sessionEvent
  split
  · split_ifs
    · exact Running.withSession ⟨h.machine, liveInv_newSession _ _⟩
    · exact h.machine
  · split_ifs
    · exact startSession_keeps h
    · exact h.machine
  · exact sessionReply_keeps h _
  · exact sessionAdvance_keeps h
  · split_ifs
    · exact h.failSession nofun
    · exact h.machine
  · split_ifs
    · exact h.machine
    · exact h.transportError
  · split_ifs
    · exact h.machine
    · exact h.endSession h.live.aborted

end

/-! ### The step -/

theorem sessionTurn_keeps {s : State} (h : MachineInv s) (e : SessionEvent) : MachineInv (sessionTurn e s) := by
  cases hs : s.session with
  | some ss =>
    rw [sessionTurn_of_some e hs]
    exact sessionEvent_keeps ⟨h, (liveInv_iff _ _).2 (h.session ss hs)⟩ e
  | none =>
    cases e with
    | create plan =>
      simp only [sessionTurn, hs]
      exact Running.withSession ⟨h, liveInv_newSession _ plan⟩
    | start | reply | advance | timeout | socketError | abort =>
      simp only [sessionTurn, hs]
      exact h

theorem runPlain_keeps {s : State} (h : MachineInv s) (a : HostAction) : MachineInv (runPlain a s) := by
  cases a with
  | write offset v => exact (blockStep_writeAt offset v s).machineInv h
  | read offset => exact (blockStep_doRead offset s).machineInv h
  | load b => exact (blockStep_doLoad b s).machineInv h
  | reset => exact (blockStep_doReset s).machineInv h
  | session e => exact sessionTurn_keeps h e
  | present => exact h

/-- The action taken leaves the invariants as they were, and each way to act on it keeps them. -/
theorem step_keeps_machineInv {s t : State} (h : MachineInv s) (ht : step s = .next t) : MachineInv t := by
  have htaken : ∀ rest, MachineInv { s with pending := rest } := fun rest => (blockStep_pending s rest).machineInv h
  rcases step_cases s with ⟨_, e⟩ | ⟨a, rest, _, _, e⟩ | ⟨_, rest, _, i, _, _, _, e⟩ | ⟨_, rest, u, _, _, _, _, e⟩
  · cases e.symm.trans ht
    exact h
  · cases e.symm.trans ht
    exact runPlain_keeps (htaken rest) a
  · exact (blockStep_exec (e.symm.trans ht)).machineInv (htaken rest)
  · cases e.symm.trans ht
    exact (blockStep_runUndecoded u _).machineInv (htaken rest)

/-- Settles O42: the block's actions are block steps, and each turn of the session closes with the invariants. -/
theorem everyStepKeepsTheInvariants : Obligations.EveryStepKeepsTheInvariants := fun _ _ h ht =>
  step_keeps_machineInv h ht

theorem doReset_reset : doReset State.reset = State.reset := rfl

theorem blockInv_reset : BlockInv State.reset := by
  have hchunk : Config.default.defaultChunk.toNat < 2 ^ Config.default.paramBits := by decide
  rw [← doReset_reset]
  exact blockInv_doReset hchunk

/-- Settles O43: the state after reset is what RESET makes of it, and there is no session and no report. -/
theorem invariantsHoldAtReset : Obligations.InvariantsHoldAtReset where
  block := blockInv_reset
  session := by simp [State.reset]
  reports := by simp [State.reset]

end Sys2Proof.Machine
end

section
/-! What an operation command reads (20_memory.md R67, 70_reset_and_hazards.md R324): its tests and its result do not
change when every part of the state outside its row of R324 is set to its value after reset. -/

namespace Sys2Proof.Machine

/-- `IN` and the parameters of the run, all else as after reset. -/
def inputOnly (s : State) : State := { State.reset with inBuf := s.inBuf, cfg := s.cfg }

/-- The operands that 70_reset_and_hazards.md R324 lists for a command, all else as after reset. -/
def operandsOnly (i : Instr) (s : State) : State :=
  match i with
  | .recEnc => { inputOnly s with recid := s.recid }
  | .rleEncRow | .rleEncImg => { inputOnly s with width := s.width }
  | .imgPktRaw => { inputOnly s with inum := s.inum, width := s.width, lpp := s.lpp }
  | .imgPktRle => { inputOnly s with inum := s.inum, width := s.width }
  | .seqPkt => { inputOnly s with chunk := s.chunk }
  | .recDec | .recCls | .rleDecRow | .nop | .next | .clr => inputOnly s
  | .frameRecord _ _ | .frameAck _ | .descRle _ _ _ | .descRaw _ _ | .pktImgRaw _ _ _ _
  | .pktImgRle _ _ _ _ | .chunkSeq _ _ _ => inputOnly s

theorem inputOnly_congr {s u : State} (hin : s.inBuf = u.inBuf) (hcfg : s.cfg = u.cfg) :
    inputOnly s = inputOnly u := by
  simp only [inputOnly, hin, hcfg]

theorem operandsOnly_eq_of_agreeOn {i : Instr} {s u : State} (h : AgreeOn i s u) :
    operandsOnly i s = operandsOnly i u := by
  obtain ⟨hin, hcfg, hregs⟩ := h
  have hinput := inputOnly_congr hin hcfg
  cases i with
  | recEnc | rleEncRow | rleEncImg | seqPkt => simp only [operandsOnly, hinput, hregs]
  | imgPktRaw =>
    obtain ⟨hinum, hwidth, hlpp⟩ := hregs
    simp only [operandsOnly, hinput, hinum, hwidth, hlpp]
  | imgPktRle =>
    obtain ⟨hinum, hwidth⟩ := hregs
    simp only [operandsOnly, hinput, hinum, hwidth]
  | recDec | recCls | rleDecRow | nop | next | clr => exact hinput
  | frameRecord | frameAck | descRle | descRaw | pktImgRaw | pktImgRle | chunkSeq => exact hinput

theorem recDecOp_reply_isSome {s : State} {r : OpResult} (h : recDecOp s = .ok r) : ∃ g, r.reply = some g := by
  simp only [recDecOp] at h
  split at h
  · cases h
    exact ⟨_, rfl⟩
  · cases h

theorem recClsOp_reply_isSome {s : State} {r : OpResult} (h : recClsOp s = .ok r) : ∃ g, r.reply = some g := by
  simp only [recClsOp] at h
  split at h
  · cases h
    exact ⟨_, rfl⟩
  · cases h

/-- The operation command `i` runs the tests and the result `op`, which read its operands only and, where `i` is
REC.DEC or REC.CLS, give the result registers. -/
structure RunsOp (i : Instr) (op : State → Except BlockFault OpResult) : Prop where
  exec : ∀ s, exec i s = .next (runOp op s)
  operands : ∀ s, op (operandsOnly i s) = op s
  replies : i = .recDec ∨ i = .recCls → ∀ s r, op s = .ok r → ∃ g, r.reply = some g

theorem RunsOp.congr {i : Instr} {op : State → Except BlockFault OpResult} (h : RunsOp i op) {s u : State}
    (ha : AgreeOn i s u) : op s = op u :=
  calc op s = op (operandsOnly i s) := (h.operands s).symm
    _ = op (operandsOnly i u) := by rw [operandsOnly_eq_of_agreeOn ha]
    _ = op u := h.operands u

/-- Each operation command's tests and result compute the same on its operands alone. -/
theorem exists_runsOp {i : Instr} (hi : isOperation i = true) : ∃ op, RunsOp i op := by
  cases i with
  | recEnc => exact ⟨recEncOp, fun _ => rfl, fun _ => rfl, by simp⟩
  | recDec => exact ⟨recDecOp, fun _ => rfl, fun _ => rfl, fun _ _ _ => recDecOp_reply_isSome⟩
  | recCls => exact ⟨recClsOp, fun _ => rfl, fun _ => rfl, fun _ _ _ => recClsOp_reply_isSome⟩
  | rleEncRow => exact ⟨rleEncRowOp, fun _ => rfl, fun _ => rfl, by simp⟩
  | rleDecRow => exact ⟨rleDecRowOp, fun _ => rfl, fun _ => rfl, by simp⟩
  | rleEncImg => exact ⟨rleEncImgOp, fun _ => rfl, fun _ => rfl, by simp⟩
  | imgPktRaw => exact ⟨imgPktRawOp, fun _ => rfl, fun _ => rfl, by simp⟩
  | imgPktRle => exact ⟨imgPktRleOp, fun _ => rfl, fun _ => rfl, by simp⟩
  | seqPkt => exact ⟨seqPktOp, fun _ => rfl, fun _ => rfl, by simp⟩
  | nop | next | clr => cases hi
  | frameRecord | frameAck | descRle | descRaw | pktImgRaw | pktImgRle | chunkSeq => cases hi

/-- A last act that writes the result registers leaves nothing of what they held. -/
theorem finish_sameReply {r : OpResult} {g : ReplyRegs} (hg : r.reply = some g) (s u : State) :
    SameReply (finish r u) (finish r s) := by
  constructor <;> simp [finish, writeReply, hg]

/-- Settles O46: the command's tests and result compute the same in both states, and what it writes is a function of
that result. -/
theorem operationsReadOnlyTheirOperands : Obligations.OperationsReadOnlyTheirOperands := by
  intro i s u hi hs hu hagree
  obtain ⟨op, hrun⟩ := exists_runsOp hi
  have hop : op s = op u := hrun.congr hagree
  refine ⟨_, _, hrun.exec s, hrun.exec u, ?_⟩
  cases hres : op u with
  | error f =>
    rw [runOp_error hs (hop.trans hres), runOp_error hu hres]
    exact ⟨rfl, rfl, rfl, fun _ => ⟨rfl, rfl⟩, fun hready => by simp at hready⟩
  | ok r =>
    rw [runOp_ok hs (hop.trans hres), runOp_ok hu hres]
    refine ⟨rfl, rfl, rfl, fun hfault => by simp at hfault, fun _ hreply => ?_⟩
    obtain ⟨g, hg⟩ := hrun.replies hreply u r hres
    obtain ⟨hsize, hid, hcls, hcode⟩ := finish_sameReply hg s u
    exact ⟨hsize, hid, hcls, hcode⟩

end Sys2Proof.Machine
end

section
/-! Fields of a wire unit (00_scope.md R7, R8; 30_encoding.md R94 to R102): a field is read back from a unit that was
put together, and a unit is put together again from the fields read. -/

namespace Sys2Proof

/-! ### Reading the fields of a unit put together -/

@[simp] theorem rd16_be16_bitVec (v : BitVec 16) (rest : List Byte) : rd16 (be16 v.toNat ++ rest) 0 = v.toNat :=
  rd16_be16_zero v.isLt rest

/-- A 16-bit field that ends the unit. -/
@[simp] theorem rd16_be16_bitVec_last (v : BitVec 16) : rd16 (be16 v.toNat) 0 = v.toNat := by
  simpa using rd16_be16_bitVec v []

/-- A field behind `pre` is the slice there of its length. -/
theorem slice_field (pre field rest : List Byte) :
    slice (pre ++ (field ++ rest)) pre.length (pre.length + field.length) = field := by
  simp [slice]

/-- A field that fits its bytes reads back as itself. -/
theorem ofNat_beVal_beBytes {w : Nat} (n : Nat) (v : BitVec w) (h : 2 ^ w = 256 ^ n) :
    BitVec.ofNat w (beVal (beBytes n v.toNat)) = v := by
  rw [beVal_beBytes, Nat.mod_eq_of_lt (h ▸ v.isLt), BitVec.ofNat_toNat, BitVec.setWidth_eq]

/-! ### Putting a unit together from the fields read -/

@[simp] theorem toNat_ofNat16_rd16 (b : List Byte) (i : Nat) : (BitVec.ofNat 16 (rd16 b i)).toNat = rd16 b i := by
  simp [Nat.mod_eq_of_lt (rd16_lt b i)]

/-- Writing a field of `n` bytes again in front of what follows it. -/
theorem beBytes_slice_append_drop {b : List Byte} {i n : Nat} (h : i + n ≤ b.length) :
    beBytes n (beVal (slice b i (i + n))) ++ b.drop (i + n) = b.drop i := by
  have hlen : (slice b i (i + n)).length = n := by simp [slice]; omega
  have hfield := beBytes_beVal (slice b i (i + n))
  rw [hlen] at hfield
  rw [hfield, slice, Nat.add_sub_cancel_left, ← List.drop_drop, List.take_append_drop]

/-- Writing a 16-bit field again in front of what follows it. -/
theorem be16_rd16_append_drop {b : List Byte} {i : Nat} (h : i + 2 ≤ b.length) :
    be16 (rd16 b i) ++ b.drop (i + 2) = b.drop i := by
  have hdrop : b.drop i = b[i] :: b[i + 1] :: b.drop (i + 2) := by
    rw [List.drop_eq_getElem_cons (by omega), List.drop_eq_getElem_cons (i := i + 1) (by omega)]
  have hfield : rd16 b i = rd16 (b.drop i) 0 := by simp [rd16]
  rw [hfield, hdrop, be16_rd16]
  rfl

/-- A field of `n` bytes whose value fits, as a word. -/
theorem toNat_ofNat_beVal_slice {w : Nat} (b : List Byte) (i n : Nat) (h : 2 ^ w = 256 ^ n) :
    (BitVec.ofNat w (beVal (slice b i (i + n)))).toNat = beVal (slice b i (i + n)) := by
  have hlen : (slice b i (i + n)).length ≤ n := by simp [slice]
  rw [BitVec.toNat_ofNat, Nat.mod_eq_of_lt]
  exact h ▸ (beVal_lt _).trans_le (Nat.pow_le_pow_right (by omega) hlen)

/-- A Record frame from its header and what follows it, the size field being the unit's length. -/
theorem recordFrame_rd16_drop {b : List Byte} (hlen : 4 ≤ b.length) (hsize : rd16 b 0 = b.length) :
    recordFrame (rd16 b 2) (b.drop 4) = b := by
  have hn : 4 + (b.drop 4).length = rd16 b 0 := by simp; omega
  rw [recordFrame, hn, List.append_assoc, be16_rd16_append_drop (i := 2) hlen,
    be16_rd16_append_drop (i := 0) (by omega), List.drop_zero]

end Sys2Proof
end

section
/-! The decoder and the encoder against each other (30_encoding.md R92 to R102): format by format, then for every
instruction and every unit. -/

namespace Sys2Proof

/-! ### Command words (30_encoding.md R90, R92, R93) -/

theorem decode_encode_of_isCommand {i : Instr} (c : BlockConfig) (hi : Machine.isCommand i = true) :
    decode c (encode c i) = .ok i := by
  cases i with
  | nop | recEnc | recDec | recCls | rleEncRow | rleDecRow | rleEncImg | imgPktRaw | imgPktRle | seqPkt | next
  | clr => rfl
  | frameRecord | frameAck | descRle | descRaw | pktImgRaw | pktImgRle | chunkSeq => cases hi

/-- The table names commands only, and each under the byte the encoder writes for it. -/
theorem encode_of_commandOfByte {n : Nat} {i : Instr} (c : BlockConfig) (h : commandOfByte n = some i) :
    Machine.isCommand i = true ∧ encode c i = .cmd (BitVec.ofNat 32 n) := by
  unfold commandOfByte at h
  split at h <;> cases h <;> exact ⟨rfl, rfl⟩

/-- A word whose upper bits are zero is its low byte (30_encoding.md R90). -/
theorem ofNat_lowByte {w : Word} (h : w.extractLsb' 8 24 = 0) : BitVec.ofNat 32 (w.extractLsb' 0 8).toNat = w := by
  have hupper : w.toNat / 256 % 2 ^ 24 = 0 := by
    simpa [BitVec.extractLsb'_toNat, Nat.shiftRight_eq_div_pow] using congrArg BitVec.toNat h
  apply BitVec.eq_of_toNat_eq
  simp [BitVec.extractLsb'_toNat]
  omega

theorem encode_of_decodeCmd {w : Word} {i : Instr} (c : BlockConfig) (h : decodeCmd w = .ok i) :
    Machine.isCommand i = true ∧ encode c i = .cmd w := by
  unfold decodeCmd at h
  split at h
  next hupper =>
    split at h
    next hbyte =>
      cases h
      simpa only [ofNat_lowByte hupper] using encode_of_commandOfByte c hbyte
    next => cases h
  next => cases h

/-! ### Wire units: decoding what was encoded -/

theorem decodeFrameRecord_recordFrame (id : BitVec 16) {p : List Byte} (h : 4 + p.length < 65536) :
    decodeFrameRecord (recordFrame id.toNat p) = .ok (.frameRecord id p) := by
  simp [decodeFrameRecord, rd16_recordFrame_size id.toNat h, rd16_recordFrame_id id.isLt]

theorem decodeFrameAck_ackFrame (ackRecid code : BitVec 16) :
    decodeFrameAck ackRecid (ackFrame ackRecid code.toNat) = .ok (.frameAck code) := by
  simp [decodeFrameAck, ackFrame, rd16_be16_zero, rd16_be16_skip]

theorem decodeDesc_descBytes {L : RleLayout} (h : L.valid = true) (d : Desc) :
    decodeDesc L (descBytes L d) = .ok (descInstr d) := by
  simp [decodeDesc, descBytes, wordDesc_descWord h]

theorem slice_imgRawPacket_tag (tag q n o : Nat) (p : List Byte) :
    slice (imgRawPacket tag q n o p) 0 4 = be32 tag := by
  simpa [imgRawPacket] using slice_field [] (be32 tag) (be16 q ++ (be16 n ++ (be48 o ++ p)))

theorem slice_imgRawPacket_offset (tag q n o : Nat) (p : List Byte) :
    slice (imgRawPacket tag q n o p) 8 14 = be48 o := by
  simpa [imgRawPacket] using slice_field (be32 tag ++ be16 q ++ be16 n) (be48 o) p

theorem imgRawPacket_drop (tag q n o : Nat) (p : List Byte) : (imgRawPacket tag q n o p).drop 14 = p :=
  List.drop_left' (by simp)

theorem decodePktImgRaw_imgRawPacket (q n : BitVec 16) (o : BitVec 48) (p : List Byte) :
    decodePktImgRaw (imgRawPacket Config.imgRawTag.toNat q.toNat n.toNat o.toNat p) = .ok (.pktImgRaw q n o p) := by
  have hlen : 14 ≤ (imgRawPacket Config.imgRawTag.toNat q.toNat n.toNat o.toNat p).length := by
    simp [imgRawPacket]; omega
  rw [decodePktImgRaw, if_neg (by omega), slice_imgRawPacket_tag, if_neg (by simp), slice_imgRawPacket_offset, be48,
    ofNat_beVal_beBytes 6 o (by decide), imgRawPacket_drop]
  simp [imgRawPacket, rd16_be32_skip, rd16_be16_skip]

/-- The fields of a Record frame behind its header are its payload's (30_encoding.md R94). -/
theorem rd16_recordFrame_payload (id : Nat) (p : List Byte) (i : Nat) : rd16 (recordFrame id p) (i + 4) = rd16 p i := by
  simp [recordFrame, rd16_be16_skip]

theorem slice_recordFrame_imgRlePayload (id q n o : Nat) (e : List Byte) :
    slice (recordFrame id (imgRlePayload q n o e)) 8 12 = be32 o := by
  simpa [recordFrame, imgRlePayload] using
    slice_field (be16 (4 + (imgRlePayload q n o e).length) ++ be16 id ++ be16 q ++ be16 n) (be32 o) e

@[simp] theorem length_imgRlePayload (q n o : Nat) (e : List Byte) : (imgRlePayload q n o e).length = 8 + e.length := by
  simp [imgRlePayload]; omega

theorem recordFrame_imgRlePayload_drop (id q n o : Nat) (e : List Byte) :
    (recordFrame id (imgRlePayload q n o e)).drop 12 = e := by
  rw [show 12 = 4 + 8 from rfl, ← List.drop_drop, recordFrame_drop]
  exact List.drop_left' (by simp)

theorem decodePktImgRle_recordFrame (q n : BitVec 16) (o : BitVec 32) {e : List Byte} (h : 12 + e.length < 65536) :
    decodePktImgRle (recordFrame Config.imgRleRecid.toNat (imgRlePayload q.toNat n.toNat o.toNat e)) =
      .ok (.pktImgRle q n o e) := by
  have hsize := rd16_recordFrame_size Config.imgRleRecid.toNat
    (p := imgRlePayload q.toNat n.toNat o.toNat e) (by simp; omega)
  rw [decodePktImgRle, if_neg (by simp; omega), if_neg (by simp [hsize]),
    if_neg (by simp [rd16_recordFrame_id Config.imgRleRecid.isLt]), slice_recordFrame_imgRlePayload, be32,
    ofNat_beVal_beBytes 4 o (by decide), recordFrame_imgRlePayload_drop]
  simp [rd16_recordFrame_payload, imgRlePayload, rd16_be16_skip]

theorem chunkDatagram_drop (tag j m : Nat) (d : List Byte) : (chunkDatagram tag j m d).drop 10 = d :=
  List.drop_left' (by simp)

theorem decodeChunkSeq_chunkDatagram (j m : BitVec 16) {d : List Byte} (h : 10 + d.length < 65536) :
    decodeChunkSeq (chunkDatagram Config.seqTag.toNat j.toNat m.toNat d) = .ok (.chunkSeq j m d) := by
  have hlen : (chunkDatagram Config.seqTag.toNat j.toNat m.toNat d).length = 10 + d.length := by
    simp [chunkDatagram]; omega
  rw [decodeChunkSeq, chunkDatagram_drop, hlen]
  simp [chunkDatagram, rd16_be16_zero h, rd16_be16_skip, rd16_be16_zero (by omega : d.length < 65536)]

/-! ### Wire units: encoding what was decoded -/

theorem encode_of_decodeFrameRecord {c : BlockConfig} {b : List Byte} {i : Instr}
    (h : decodeFrameRecord b = .ok i) : encode c i = .wire .frameRecord b := by
  unfold decodeFrameRecord at h
  split_ifs at h with hlen hsize
  cases h
  rw [encode, toNat_ofNat16_rd16, recordFrame_rd16_drop (by omega) (not_not.1 hsize)]

theorem encode_of_decodeFrameAck {c : BlockConfig} {b : List Byte} {i : Instr}
    (h : decodeFrameAck c.ackRecid b = .ok i) : encode c i = .wire .frameAck b := by
  unfold decodeFrameAck at h
  split_ifs at h with hlen hsize hid
  cases h
  have hpayload : be16 (rd16 b 4) = b.drop 4 := by
    rw [← be16_rd16_append_drop (i := 4) (by omega), List.drop_of_length_le (by omega), List.append_nil]
  rw [encode, toNat_ofNat16_rd16, ackFrame_eq, hpayload, ← not_not.1 hid, recordFrame_rd16_drop (by omega) (by omega)]

theorem encode_descInstr (c : BlockConfig) (d : Desc) :
    encode c (descInstr d) = .wire .desc16 (descBytes c.layout d) := by
  cases d <;> rfl

theorem encode_of_decodeDesc {c : BlockConfig} (hL : c.layout.valid = true) {b : List Byte} {i : Instr}
    (h : decodeDesc c.layout b = .ok i) : encode c i = .wire .desc16 b := by
  unfold decodeDesc at h
  split_ifs at h with hlen
  cases h
  have hbytes := be16_rd16_append_drop (b := b) (i := 0) (by omega)
  rw [List.drop_of_length_le (by omega), List.append_nil, List.drop_zero] at hbytes
  rw [encode_descInstr, descBytes, descWord_wordDesc hL, toNat_ofNat16_rd16, hbytes]

theorem encode_of_decodePktImgRaw {c : BlockConfig} {b : List Byte} {i : Instr}
    (h : decodePktImgRaw b = .ok i) : encode c i = .wire .pktImgRaw b := by
  unfold decodePktImgRaw at h
  split_ifs at h with hlen htag
  cases h
  have hoffset := toNat_ofNat_beVal_slice b 8 6 (by decide : 2 ^ 48 = 256 ^ 6)
  have hbytes : be32 Config.imgRawTag.toNat ++ (be16 (rd16 b 4) ++ (be16 (rd16 b 6) ++
      (be48 (beVal (slice b 8 14)) ++ b.drop 14))) = b := by
    rw [be48, beBytes_slice_append_drop (i := 8) (n := 6) (by omega), be16_rd16_append_drop (i := 6) (by omega),
      be16_rd16_append_drop (i := 4) (by omega), ← not_not.1 htag]
    simp [slice]
  simp only [encode, imgRawPacket, toNat_ofNat16_rd16, hoffset, List.append_assoc, hbytes]

theorem encode_of_decodePktImgRle {c : BlockConfig} {b : List Byte} {i : Instr}
    (h : decodePktImgRle b = .ok i) : encode c i = .wire .pktImgRle b := by
  unfold decodePktImgRle at h
  split_ifs at h with hlen hsize hid
  cases h
  have hoffset := toNat_ofNat_beVal_slice b 8 4 (by decide : 2 ^ 32 = 256 ^ 4)
  have hpayload : imgRlePayload (rd16 b 4) (rd16 b 6) (beVal (slice b 8 12)) (b.drop 12) = b.drop 4 := by
    simp only [imgRlePayload, List.append_assoc]
    rw [be32, beBytes_slice_append_drop (i := 8) (n := 4) (by omega), be16_rd16_append_drop (i := 6) (by omega),
      be16_rd16_append_drop (i := 4) (by omega)]
  simp only [encode, toNat_ofNat16_rd16, hoffset, hpayload]
  rw [← not_not.1 hid, recordFrame_rd16_drop (by omega) (not_not.1 hsize)]

theorem encode_of_decodeChunkSeq {c : BlockConfig} {b : List Byte} {i : Instr}
    (h : decodeChunkSeq b = .ok i) : encode c i = .wire .chunkSeq b := by
  unfold decodeChunkSeq at h
  split_ifs at h with hlen hsize hid hcount
  cases h
  have hdata : (b.drop 10).length = rd16 b 8 := by rw [not_not.1 hcount, List.length_drop]
  have hpayload : be16 (rd16 b 4) ++ be16 (rd16 b 6) ++ be16 (b.drop 10).length ++ b.drop 10 = b.drop 4 := by
    rw [hdata, List.append_assoc, List.append_assoc, be16_rd16_append_drop (i := 8) (by omega),
      be16_rd16_append_drop (i := 6) (by omega), be16_rd16_append_drop (i := 4) (by omega)]
  simp only [encode, toNat_ofNat16_rd16, chunkDatagram_eq, hpayload]
  rw [← not_not.1 hid, recordFrame_rd16_drop (by omega) (not_not.1 hsize)]

/-! ### Every unit and every instruction -/

/-- The fields of a unit that decode are those of an instruction whose encoding is the unit. -/
theorem encode_of_decodeFields {c : BlockConfig} (hL : c.layout.valid = true) {f : WireFormat} {b : List Byte}
    {i : Instr} (h : decodeFields c f b = .ok i) : encode c i = .wire f b := by
  cases f with
  | frameRecord => exact encode_of_decodeFrameRecord h
  | frameAck => exact encode_of_decodeFrameAck h
  | desc16 => exact encode_of_decodeDesc hL h
  | pktImgRaw => exact encode_of_decodePktImgRaw h
  | pktImgRle => exact encode_of_decodePktImgRle h
  | chunkSeq => exact encode_of_decodeChunkSeq h

/-- The encoding of a well-formed instruction that is no command is a unit whose fields decode to it. -/
theorem decodeFields_encode {c : BlockConfig} (hc : c.valid = true) {i : Instr} (hwf : i.wf c = true)
    (hi : Machine.isCommand i = false) : ∃ f b, encode c i = .wire f b ∧ decodeFields c f b = .ok i := by
  obtain ⟨hL, -, hhdr, hrle, hseq, -⟩ := c.valid_iff.1 hc
  cases i with
  | nop | recEnc | recDec | recCls | rleEncRow | rleDecRow | rleEncImg | imgPktRaw | imgPktRle | seqPkt | next
  | clr => cases hi
  | frameRecord id p =>
    have hlen := of_decide_eq_true hwf
    exact ⟨_, _, rfl, decodeFrameRecord_recordFrame id (by omega)⟩
  | frameAck code => exact ⟨_, _, rfl, decodeFrameAck_ackFrame _ code⟩
  | descRle b p n => exact ⟨_, _, rfl, decodeDesc_descBytes hL (.rle b p n)⟩
  | descRaw r v => exact ⟨_, _, rfl, decodeDesc_descBytes hL (.raw r v)⟩
  | pktImgRaw q n o p => exact ⟨_, _, rfl, decodePktImgRaw_imgRawPacket q n o p⟩
  | pktImgRle q n o e =>
    simp only [Instr.wf, wfPktImgRle, Bool.and_eq_true, decide_eq_true_eq] at hwf
    exact ⟨_, _, rfl, decodePktImgRle_recordFrame q n o (by omega)⟩
  | chunkSeq j m d =>
    simp only [Instr.wf, wfChunkSeq, Bool.and_eq_true, decide_eq_true_eq] at hwf
    obtain ⟨⟨-, hpos⟩, hmax⟩ := hwf
    have hlen := chunkDataMax_add_le hpos hmax
    exact ⟨_, _, rfl, decodeChunkSeq_chunkDatagram j m (by omega)⟩

/-- A unit decodes when its fields do, to an instruction that is well formed. -/
theorem decodeWire_eq_ok_iff {c : BlockConfig} {f : WireFormat} {b : List Byte} {i : Instr} :
    decodeWire c f b = .ok i ↔ decodeFields c f b = .ok i ∧ i.wf c = true := by
  unfold decodeWire
  cases hfields : decodeFields c f b with
  | error e => simp
  | ok j => by_cases hwf : j.wf c = true <;> grind

theorem wf_of_isCommand {i : Instr} (c : BlockConfig) (hi : Machine.isCommand i = true) : i.wf c = true := by
  cases i with
  | nop | recEnc | recDec | recCls | rleEncRow | rleDecRow | rleEncImg | imgPktRaw | imgPktRle | seqPkt | next
  | clr => rfl
  | frameRecord | frameAck | descRle | descRaw | pktImgRaw | pktImgRle | chunkSeq => cases hi

/-- Settles O3: a command by the table, a wire unit by its format's fields. -/
theorem decodeOfEncodeIsTheInstruction : Obligations.DecodeOfEncodeIsTheInstruction := by
  intro c i hc hwf
  cases hi : Machine.isCommand i with
  | true => exact decode_encode_of_isCommand c hi
  | false =>
    obtain ⟨f, b, henc, hdec⟩ := decodeFields_encode hc hwf hi
    rw [henc]
    exact decodeWire_eq_ok_iff.2 ⟨hdec, hwf⟩

/-- Settles O4: a command word by the table, a wire unit by its format's fields. -/
theorem encodeOfDecodeIsTheUnit : Obligations.EncodeOfDecodeIsTheUnit := by
  intro c u i hc h
  cases u with
  | cmd w =>
    obtain ⟨hi, henc⟩ := encode_of_decodeCmd c h
    exact ⟨wf_of_isCommand c hi, henc⟩
  | wire f b =>
    obtain ⟨hfields, hwf⟩ := decodeWire_eq_ok_iff.1 h
    exact ⟨hwf, encode_of_decodeFields (c.valid_iff.1 hc).1 hfields⟩

/-- Settles O1: the twelve words decode as what the encoder writes, and a word that decodes is one of those. -/
theorem commandDecoderIsTheTable : Obligations.CommandDecoderIsTheTable := by
  intro c
  refine ⟨rfl, rfl, rfl, rfl, rfl, rfl, rfl, rfl, rfl, rfl, rfl, rfl, fun w hw => ?_⟩
  cases h : decode c (.cmd w) with
  | error e => exact ⟨e, rfl⟩
  | ok i =>
    obtain ⟨hi, henc⟩ := encode_of_decodeCmd c h
    refine absurd ?_ hw
    cases i with
    | nop | recEnc | recDec | recCls | rleEncRow | rleDecRow | rleEncImg | imgPktRaw | imgPktRle | seqPkt | next
    | clr =>
      cases henc
      decide
    | frameRecord | frameAck | descRle | descRaw | pktImgRaw | pktImgRle | chunkSeq => cases hi

/-- Settles O2: each word is short enough to be decoded by evaluation. -/
theorem writtenOutWordsDecode : Obligations.WrittenOutWordsDecode := by
  unfold Obligations.WrittenOutWordsDecode
  decide

end Sys2Proof
end

section
/-! RLE.DECROW on a stream it accepts (41_rle_codec.md R152, R155). -/

namespace Sys2Proof.Machine

theorem Fits.mono {cfg : BlockConfig} {m n : Nat} (h : Fits cfg n) (hmn : m ≤ n) : Fits cfg m :=
  fun cap hcap => hmn.trans (h cap hcap)

/-- The loop of RLE.DECROW over descriptors that the policy admits and whose bytes the capacity holds beside those
already decoded gives their expansions in order. -/
theorem expandAll_eq_ok {cfg : BlockConfig} {ds : List Desc} {used : Nat}
    (hres : ∀ d ∈ ds, reservedDesc cfg d = false) (hfit : Fits cfg (used + (ds.flatMap expand).length)) :
    expandAll cfg used ds = .ok (ds.flatMap expand) := by
  induction ds generalizing used with
  | nil => rfl
  | cons d ds ih =>
    rw [List.flatMap_cons, List.length_append, ← Nat.add_assoc] at hfit
    have hd : overCapacity cfg (used + (expand d).length) = false :=
      (overCapacity_eq_false_iff _ _).2 (hfit.mono (Nat.le_add_right _ _))
    have hrest := ih (fun e he => hres e (.tail d he)) hfit
    simp [expandAll, hres d, hd, hrest]

theorem rleDecRowOp_eq_ok {s : State} (heven : s.inBuf.length % 2 = 0)
    (hres : ∀ d ∈ streamDescs s.cfg.layout s.inBuf, reservedDesc s.cfg d = false)
    (hfit : Fits s.cfg ((streamDescs s.cfg.layout s.inBuf).flatMap expand).length) :
    rleDecRowOp s = .ok { outq := [(streamDescs s.cfg.layout s.inBuf).flatMap expand], reply := none } := by
  have hall := expandAll_eq_ok (used := 0) hres (by rwa [Nat.zero_add])
  simp [rleDecRowOp, heven, hall]

/-- Settles O13: the length test, then the loop over the descriptors. -/
theorem rleDecRowExpandsInOrder : Obligations.RleDecRowExpandsInOrder := by
  intro s hs
  refine ⟨fun hodd => ?_, fun heven hres hfit => ?_⟩
  · have hop : rleDecRowOp s = .error .malformedDescriptorStream := by simp [rleDecRowOp, hodd]
    exact congrArg Host.Outcome.next (runOp_error hs hop)
  · exact congrArg Host.Outcome.next (runOp_ok hs (rleDecRowOp_eq_ok heven hres hfit))

end Sys2Proof.Machine
end

section
/-! Presenting a wire unit (30_encoding.md R109; log 2, log 3): LOAD and then the command that reads the format, in
every state as the two host actions, and in IDLE with the whole next state. -/

namespace Sys2Proof.Machine

/-! ### As two host actions -/

/-- What a wire instruction does: its encoding is presented to the command that reads the format. -/
theorem exec_of_encode_wire {i : Instr} {s : State} {f : WireFormat} {b : List Byte}
    (h : encode s.cfg i = .wire f b) : exec i s = .next (presentBytes (consumerOf f) b s) := by
  cases i with
  | nop | recEnc | recDec | recCls | rleEncRow | rleDecRow | rleEncImg | imgPktRaw | imgPktRle | seqPkt | next
  | clr => cases h
  | frameRecord | frameAck | descRle | descRaw | pktImgRaw | pktImgRle | chunkSeq =>
    cases h
    rfl

/-- LOAD does not read the host's list of actions. -/
theorem doLoad_with_pending (b : List Byte) (s : State) (l : List HostAction) :
    doLoad b { s with pending := l } = { doLoad b s with pending := l } := by
  cases hs : s.st with
  | idle => by_cases hcap : overCapacity s.cfg b.length = true <;> simp [doLoad, raise, hs, hcap]
  | ready => simp [doLoad, raise, hs]
  | fault => simp [doLoad, hs]

theorem step_of_load {s : State} {b : List Byte} {rest : List HostAction} (hp : s.pending = .load b :: rest) :
    step s = .next (doLoad b { s with pending := rest }) := by
  simp only [step, takeAction, hp, runAction, unitOf, runPlain]

/-- LOAD and then a command, pending before everything else, come to LOAD and the command's meaning. -/
theorem run_load_then_command {s t : State} {b : List Byte} {w : Word} {j : Instr}
    (hd : decode s.cfg (.cmd w) = .ok j) (he : exec j (doLoad b s) = .next t) :
    core.run 2 { s with pending := .load b :: .write 0x00 w :: s.pending } = .next t := by
  have hload : step { s with pending := .load b :: .write 0x00 w :: s.pending } =
      .next { doLoad b s with pending := .write 0x00 w :: s.pending } :=
    (step_of_load rfl).trans (congrArg Host.Outcome.next (doLoad_with_pending b s _))
  have hcmd : step { doLoad b s with pending := .write 0x00 w :: s.pending } = .next t := by
    rw [step_of_decodes (u := .cmd w) rfl rfl (by simpa using hd), ← he, ← doLoad_with_pending]
  simp only [Host.Core.run, core, hload, hcmd]

/-- Settles O47: what presenting comes to in the model, against the two steps. -/
theorem presentingIsLoadThenCommand : Obligations.PresentingIsLoadThenCommand := by
  intro s t i f b w henc hw hex
  rw [exec_of_encode_wire henc] at hex
  subst hw
  cases f with
  | frameRecord | pktImgRle | chunkSeq => exact run_load_then_command (j := .recDec) rfl hex
  | frameAck => exact run_load_then_command (j := .recCls) rfl hex
  | desc16 => exact run_load_then_command (j := .rleDecRow) rfl hex
  | pktImgRaw => exact run_load_then_command (j := .nop) rfl hex

/-! ### In IDLE -/

theorem presentBytes_runOp_ok {op : State → Except BlockFault OpResult} {b : List Byte} {s : State} {r : OpResult}
    (hs : s.st = .idle) (hfit : Fits s.cfg b.length) (hop : op { s with inBuf := b } = .ok r) :
    presentBytes (runOp op) b s = finish r { s with inBuf := b } :=
  (congrArg (runOp op) (doLoad_fits hs hfit)).trans (runOp_ok hs hop)

theorem presentBytes_runOp_error {op : State → Except BlockFault OpResult} {b : List Byte} {s : State}
    {f : BlockFault} (hs : s.st = .idle) (hfit : Fits s.cfg b.length) (hop : op { s with inBuf := b } = .error f) :
    presentBytes (runOp op) b s = faulted (faultCodeOf f) (faultParamOf f) { s with inBuf := b } :=
  (congrArg (runOp op) (doLoad_fits hs hfit)).trans (runOp_error hs hop)

/-- A Record frame of `n` bytes presented in IDLE is decoded (40_record_codec.md R134). -/
theorem presentBytes_runRecDec_recordFrame {s : State} (id : BitVec 16) {p : List Byte} {n : Nat} (hs : s.st = .idle)
    (hn : 4 + p.length = n) (hlen : n ≤ 65535) (hfit : Fits s.cfg n) :
    presentBytes runRecDec (recordFrame id.toNat p) s =
      { s with
        inBuf := be16 n ++ be16 id.toNat ++ p, st := .ready, outq := [p], outidx := 0
        rsize := BitVec.ofNat 32 n, rrecid := BitVec.ofNat 32 id.toNat, rclass := 0, rcode := 0 } := by
  subst hn
  have hop : recDecOp { s with inBuf := recordFrame id.toNat p } = .ok
      { outq := [p]
        reply := some
          { rsize := BitVec.ofNat 32 (4 + p.length), rrecid := BitVec.ofNat 32 id.toNat
            rclass := classNone, rcode := 0 } } := by
    simp [recDecOp, wholeInput, wellFramed_recordFrame id.toNat (p := p) (by omega),
      rd16_recordFrame_size id.toNat (p := p) (by omega), rd16_recordFrame_id id.isLt]
  exact presentBytes_runOp_ok hs (by simpa using hfit) hop

/-- Settles O48: the frame of the record, decoded. -/
theorem frameRecordPresented : Obligations.FrameRecordPresented := by
  intro s id p hs hlen hfit
  exact congrArg Host.Outcome.next (presentBytes_runRecDec_recordFrame id hs rfl (by omega) hfit)

theorem classOfCode_eq_unknown_iff (c : BitVec 16) :
    classOfCode c = classUnknown ↔ ¬(isAckOk c || (replyName c).isSome) = true := by
  cases hok : isAckOk c <;> cases hname : (replyName c).isSome <;>
    simp [classOfCode, hok, hname, classOk, classError, classUnknown]

/-- The class of an acknowledgement frame is the class of its code, and its `RCODE` the code
(40_record_codec.md R137, 10_state.md R38). -/
theorem recClsOp_ackFrame {s : State} {c : BitVec 16} (hin : s.inBuf = ackFrame s.cfg.ackRecid c.toNat) :
    recClsOp s = .ok
      { outq := if isAckOk c || (replyName c).isSome then [] else [s.inBuf]
        reply := some
          { rsize := 6, rrecid := BitVec.ofNat 32 s.cfg.ackRecid.toNat, rclass := classOfCode c
            rcode := BitVec.ofNat 32 c.toNat } } := by
  rw [ackFrame_eq] at hin
  have hframed : wellFramed s.inBuf = true := hin ▸ wellFramed_recordFrame _ (by simp)
  have hsize : rd16 s.inBuf 0 = 6 := by simp [hin, rd16_recordFrame_size]
  have hid : rd16 s.inBuf 2 = s.cfg.ackRecid.toNat := hin ▸ rd16_recordFrame_id s.cfg.ackRecid.isLt _
  have hcode : rd16 s.inBuf 4 = c.toNat := by simp [hin, rd16_recordFrame_payload (i := 0)]
  have hack : isAckFrame s.cfg.ackRecid s.inBuf = true := (isAckFrame_iff _ _).2 ⟨by simp [hin], hid⟩
  simp only [recClsOp, wholeInput, hframed, if_true, replyClass, replyCode, hack, hsize, hid, hcode, BitVec.ofNat_toNat,
    BitVec.setWidth_eq, classOfCode_eq_unknown_iff, ite_not]
  rfl

/-- Code 0x2710 is not the OK code and stands in the table (40_record_codec.md R141). -/
theorem classOfCode_invalidInumSize : classOfCode 0x2710 = classError := by
  simp [classOfCode, isAckOk, replyName]

/-- Settles O49: the acknowledgement frame is classified by its code. -/
theorem frameAckPresented : Obligations.FrameAckPresented := by
  intro s c hs hfit
  have hpres : presentBytes runRecCls (ackFrame s.cfg.ackRecid c.toNat) s = _ :=
    presentBytes_runOp_ok hs (by simpa [ackFrame] using hfit) (recClsOp_ackFrame rfl)
  have hexec : exec (.frameAck c) s = _ := congrArg Host.Outcome.next hpres
  exact ⟨hexec, fun hc => ⟨_, hexec, hc ▸ classOfCode_invalidInumSize⟩⟩

/-- A descriptor presented alone is a stream of that one descriptor. -/
theorem streamDescs_descBytes {L : RleLayout} (h : L.valid = true) (d : Desc) :
    streamDescs L (descBytes L d) = [d] := by
  simp [streamDescs, descBytes, wordDesc_descWord h]

/-- A descriptor the policy admits, presented in IDLE, gives its expansion (41_rle_codec.md R152). -/
theorem presentBytes_runRleDecRow_descBytes {s : State} {d : Desc} (hs : s.st = .idle)
    (hL : s.cfg.layout.valid = true) (hfit : Fits s.cfg 2) (hres : reservedDesc s.cfg d = false)
    (hout : Fits s.cfg (expand d).length) :
    presentBytes runRleDecRow (descBytes s.cfg.layout d) s =
      produced [expand d] { s with inBuf := descBytes s.cfg.layout d } := by
  have hop : rleDecRowOp { s with inBuf := descBytes s.cfg.layout d } = .ok { outq := [expand d], reply := none } := by
    have hstream := streamDescs_descBytes hL d
    simpa [hstream] using rleDecRowOp_eq_ok (s := { s with inBuf := descBytes s.cfg.layout d })
      (by simp [descBytes]) (by simpa [hstream] using hres) (by simpa [hstream] using hout)
  exact presentBytes_runOp_ok hs (by simpa [descBytes] using hfit) hop

/-- A descriptor the policy refuses, presented in IDLE, is ReservedDescriptor (41_rle_codec.md R153). -/
theorem presentBytes_runRleDecRow_reserved {s : State} {d : Desc} (hs : s.st = .idle)
    (hL : s.cfg.layout.valid = true) (hfit : Fits s.cfg 2) (hres : reservedDesc s.cfg d = true) :
    presentBytes runRleDecRow (descBytes s.cfg.layout d) s =
      faulted 7 0 { s with inBuf := descBytes s.cfg.layout d } := by
  have hop : rleDecRowOp { s with inBuf := descBytes s.cfg.layout d } = .error .reservedDescriptor := by
    have hlen : (descBytes s.cfg.layout d).length % 2 = 0 := by simp [descBytes]
    simp [rleDecRowOp, hlen, streamDescs_descBytes hL, expandAll, hres]
  exact presentBytes_runOp_error hs (by simpa [descBytes] using hfit) hop

/-- Settles O50: what the policy says of the descriptor decides between its expansion and the fault. -/
theorem descriptorsPresented : Obligations.DescriptorsPresented := by
  intro s hs hL hfit
  refine ⟨fun b p n hpol hout => ?_, fun b p n hpol hp => ?_, fun r v => ?_⟩
  · have hres : reservedDesc s.cfg (.rle b p n) = false := by
      rcases hpol with h | h <;> simp [reservedDesc, h]
    exact congrArg Host.Outcome.next
      (presentBytes_runRleDecRow_descBytes hs hL hfit hres (by simpa [expand] using hout))
  · have hres : reservedDesc s.cfg (.rle b p n) = true := by simpa [reservedDesc, hpol] using hp
    exact congrArg Host.Outcome.next (presentBytes_runRleDecRow_reserved hs hL hfit hres)
  · exact congrArg Host.Outcome.next
      (presentBytes_runRleDecRow_descBytes hs hL hfit rfl (hfit.mono (by simp [expand])))

/-- Settles O51: PKT.IMGRAW is LOAD alone, the other two are Record frames, decoded. -/
theorem packetsPresented : Obligations.PacketsPresented := by
  intro s hs
  refine ⟨fun q n o p hfit => ?_, fun q n o e hlen hfit => ?_, fun j m d hlen hfit => ?_⟩
  · have hlen : (imgRawPacket Config.imgRawTag.toNat q.toNat n.toNat o.toNat p).length = 14 + p.length := by
      simp [imgRawPacket]; omega
    exact congrArg Host.Outcome.next (doLoad_fits hs (hlen ▸ hfit))
  · have hn : 4 + (imgRlePayload q.toNat n.toNat o.toNat e).length = 12 + e.length := by simp; omega
    exact congrArg Host.Outcome.next (presentBytes_runRecDec_recordFrame Config.imgRleRecid hs hn hlen hfit)
  · have hn : 4 + (be16 j.toNat ++ be16 m.toNat ++ be16 d.length ++ d).length = 10 + d.length := by simp; omega
    have hpres := presentBytes_runRecDec_recordFrame Config.seqTag hs hn hlen hfit
    rw [← chunkDatagram_eq] at hpres
    refine (congrArg Host.Outcome.next hpres).trans ?_
    simp only [List.append_assoc]

end Sys2Proof.Machine
end

section
/-! The RecordCodec commands (40_record_codec.md R130 to R142): what each makes of the block in every state, that
REC.ENC and REC.DEC are inverse, and the reply table. -/

namespace Sys2Proof.Machine

/-- An operation command in every state, from what it does in IDLE (44_control_ops.md R231). -/
theorem runOp_eq_stateTested {op : State → Except BlockFault OpResult} {s r : State}
    (h : s.st = .idle → runOp op s = r) : runOp op s = stateTested s r := by
  cases hs : s.st with
  | idle => simp only [stateTested, hs, h hs]
  | ready => simp only [stateTested, hs, runOp_ready hs]
  | fault => simp only [stateTested, hs, runOp_fault hs]

/-! ### REC.ENC and REC.DEC in IDLE -/

theorem runRecEnc_of_legal {s : State} (hs : s.st = .idle) (hid : s.recid.toNat ≤ 65535)
    (hlen : s.inBuf.length ≤ 65531) : runRecEnc s = produced [recordFrame s.recid.toNat s.inBuf] s :=
  runOp_ok hs (recEncOp_ok hid hlen)

theorem runRecDec_of_wellFramed {s : State} (hs : s.st = .idle) (h : wellFramed s.inBuf = true) :
    runRecDec s = replied [s.inBuf.drop 4] 0 0 s := by
  have hop : recDecOp s = .ok _ := if_pos h
  exact runOp_ok hs hop

theorem runRecDec_of_not_wellFramed {s : State} (hs : s.st = .idle) (h : ¬wellFramed s.inBuf = true) :
    runRecDec s = faulted 2 0 s :=
  runOp_error (f := .malformedRecord) hs (if_neg h)

/-- Settles O7: the two tests of R132 in order, then the frame. -/
theorem recEncFramesThePayload : Obligations.RecEncFramesThePayload := by
  intro s
  refine congrArg Host.Outcome.next (runOp_eq_stateTested fun hs => ?_)
  split_ifs with hid hlen
  · exact runOp_error (f := .invalidParameter .recordId) hs (if_pos hid)
  · exact runOp_error (f := .invalidParameter .payloadLength) hs ((if_neg hid).trans (if_pos hlen))
  · exact runRecEnc_of_legal hs (by omega) (by omega)

/-- Settles O8: the framing test of R134 decides. -/
theorem recDecValidatesAndDecodes : Obligations.RecDecValidatesAndDecodes := by
  intro s
  refine congrArg Host.Outcome.next (runOp_eq_stateTested fun hs => ?_)
  simp only [← wellFramed_iff]
  split_ifs with hframed
  · exact runRecDec_of_wellFramed hs hframed
  · exact runRecDec_of_not_wellFramed hs hframed

/-! ### REC.ENC and REC.DEC against each other -/

/-- The two header fields and the payload are read back from a frame (30_encoding.md R94, R95). -/
theorem recordFrame_injective {id id' : Nat} {p p' : List Byte} (hid : id ≤ 65535) (hid' : id' ≤ 65535)
    (h : recordFrame id p = recordFrame id' p') : id = id' ∧ p = p' := by
  constructor
  · rw [← rd16_recordFrame_id (Nat.lt_succ_of_le hid) p, h, rd16_recordFrame_id (Nat.lt_succ_of_le hid') p']
  · rw [← recordFrame_drop id p, h, recordFrame_drop]

/-- REC.DEC of a frame that REC.ENC makes. -/
theorem runRecDec_of_recordFrame {u : State} {id : Word} {p : List Byte} (hu : u.st = .idle)
    (hid : id.toNat ≤ 65535) (hlen : p.length ≤ 65531) (hin : u.inBuf = recordFrame id.toNat p) :
    (runRecDec u).st = .ready ∧ (runRecDec u).rrecid = id ∧ (runRecDec u).rsize.toNat = 4 + p.length ∧
      (runRecDec u).outq = [p] := by
  have hframed : wellFramed u.inBuf = true := hin ▸ wellFramed_recordFrame _ (by omega)
  have hsize : rd16 u.inBuf 0 = 4 + p.length := hin ▸ rd16_recordFrame_size _ (by omega)
  have hrecid : rd16 u.inBuf 2 = id.toNat := hin ▸ rd16_recordFrame_id (by omega) p
  rw [runRecDec_of_wellFramed hu hframed]
  refine ⟨rfl, ?_, ?_, ?_⟩
  · simp [replied, hrecid]
  · exact (toNat_ofNat_rd16 u.inBuf 0).trans hsize
  · simp [replied, hin]

/-- REC.DEC that ends in READY accepted the frame. -/
theorem wellFramed_of_runRecDec_ready {s : State} (hs : s.st = .idle) (h : (runRecDec s).st = .ready) :
    wellFramed s.inBuf = true := by
  by_contra hframed
  simp [runRecDec_of_not_wellFramed hs hframed] at h

/-- REC.ENC of the id and the payload of a frame that REC.DEC accepts. -/
theorem runRecEnc_of_decoded {u : State} {b : List Byte} (hu : u.st = .idle) (hframed : wellFramed b = true)
    (hid : u.recid.toNat = rd16 b 2) (hin : u.inBuf = b.drop 4) : runRecEnc u = produced [b] u := by
  obtain ⟨hlen, hsize⟩ := (wellFramed_iff b).1 hframed
  have hid_lt := rd16_lt b 2
  have hsize_lt := rd16_lt b 0
  have hpayload : u.inBuf.length = b.length - 4 := by simp [hin]
  rw [runRecEnc_of_legal hu (by omega) (by omega), hid, hin, recordFrame_rd16_drop hlen hsize]

/-- Settles O9: the three laws of R136. -/
theorem encodeAndDecodeAreInverse : Obligations.EncodeAndDecodeAreInverse := by
  refine ⟨fun s hs hid hlen => ?_, fun s t hs hdec hready => ?_,
    fun s u t v hs hu hid hid' hlen hlen' ht hv hq => ?_⟩
  · have henc := runRecEnc_of_legal hs hid hlen
    exact ⟨_, _, congrArg Host.Outcome.next henc, rfl, rfl, fun u hu hin =>
      ⟨_, rfl, runRecDec_of_recordFrame hu hid hlen hin⟩⟩
  · cases hdec
    have hframed := wellFramed_of_runRecDec_ready hs hready
    rw [runRecDec_of_wellFramed hs hframed]
    refine ⟨_, rfl, fun u hu hrecid hin => ?_⟩
    have hid : u.recid.toNat = rd16 s.inBuf 2 := by simp only [hrecid, replied, toNat_ofNat_rd16]
    exact ⟨_, congrArg Host.Outcome.next (runRecEnc_of_decoded hu hframed hid hin), rfl, rfl⟩
  · cases ht
    cases hv
    rw [runRecEnc_of_legal hs hid hlen, runRecEnc_of_legal hu hid' hlen'] at hq
    obtain ⟨hrecid, hin⟩ := recordFrame_injective hid hid' (List.singleton_inj.1 hq)
    exact ⟨BitVec.eq_of_toNat_eq hrecid, hin⟩

/-! ### The reply table and the OK code -/

/-- `ACK_OK_CODE` as the model settles it: the free constant, or 0x0000 where the constant is the forbidden 0x2710
(log 6). -/
def ackOkCode : BitVec 16 := if Config.ackOkRaw = 0x2710 then 0x0000 else Config.ackOkRaw

theorem ackOkCode_ne : ackOkCode ≠ 0x2710 := by
  unfold ackOkCode
  split_ifs with h
  · decide
  · exact h

theorem isAckOk_iff (c : BitVec 16) : isAckOk c = true ↔ c = ackOkCode := by
  by_cases h : Config.ackOkRaw = 0x2710
  · have hcode : ackOkCode = 0x0000 := if_pos h
    simp only [isAckOk, h, hcode, bne_iff_ne, beq_iff_eq, Bool.and_eq_true, Bool.or_eq_true]
    constructor
    · rintro ⟨hne, heq | ⟨-, hzero⟩⟩
      · exact absurd heq hne
      · exact hzero
    · rintro rfl
      exact ⟨by decide, .inr ⟨trivial, rfl⟩⟩
  · have hcode : ackOkCode = Config.ackOkRaw := if_neg h
    simp only [isAckOk, hcode, bne_iff_ne, beq_iff_eq, Bool.and_eq_true, Bool.or_eq_true, h, false_and, or_false]
    exact ⟨And.right, fun heq => ⟨heq ▸ h, heq⟩⟩

/-- Settles O11: the OK code is `ackOkCode`. -/
theorem replyTableAndOkCodeAreApart : Obligations.ReplyTableAndOkCodeAreApart := by
  refine ⟨rfl, ⟨ackOkCode, (isAckOk_iff _).2 rfl, fun c hc => (isAckOk_iff c).1 hc⟩, fun c hc => ?_⟩
  have hne : c ≠ 0x2710 := (isAckOk_iff c).1 hc ▸ ackOkCode_ne
  exact ⟨hne, (if_neg hne).trans (if_pos hc)⟩

/-! ### REC.CLS -/

theorem runRecCls_of_wellFramed {s : State} (hs : s.st = .idle) (h : wellFramed s.inBuf = true) :
    runRecCls s =
      replied (if replyClass s.cfg.ackRecid s.inBuf = classUnknown then [s.inBuf] else [])
        (replyClass s.cfg.ackRecid s.inBuf) (replyCode s.cfg.ackRecid s.inBuf) s := by
  have hop : recClsOp s = .ok _ := if_pos h
  exact runOp_ok hs hop

theorem runRecCls_of_not_wellFramed {s : State} (hs : s.st = .idle) (h : ¬wellFramed s.inBuf = true) :
    runRecCls s = faulted 2 0 s :=
  runOp_error (f := .malformedRecord) hs (if_neg h)

/-- Settles O10: the framing test, then what makes a frame an acknowledgement, then the order of its code's classes
(R137). -/
theorem recClsClassifiesTheReply : Obligations.RecClsClassifiesTheReply := by
  intro s
  refine congrArg Host.Outcome.next (runOp_eq_stateTested fun hs => ?_)
  simp only [← wellFramed_iff, ← isAckFrame_iff]
  by_cases hframed : wellFramed s.inBuf = true
  · rw [if_pos hframed]
    refine (runRecCls_of_wellFramed hs hframed).trans ?_
    unfold replyClass replyCode classOfCode
    by_cases hack : isAckFrame s.cfg.ackRecid s.inBuf = true
    · by_cases hok : isAckOk (BitVec.ofNat 16 (rd16 s.inBuf 4)) = true
      · simp only [if_pos hack, if_pos hok]
        rfl
      · by_cases hname : (replyName (BitVec.ofNat 16 (rd16 s.inBuf 4))).isSome = true
        · simp only [if_pos hack, if_neg hok, if_pos hname]
          rfl
        · simp only [if_pos hack, if_neg hok, if_neg hname]
          rfl
    · simp only [if_neg hack]
      rfl
  · rw [if_neg hframed]
    exact runRecCls_of_not_wellFramed hs hframed

end Sys2Proof.Machine
end

section
/-! A reply in `Priming` (46_host_transfer_session.md R254, R260, R261): REC.CLS tells the OK acknowledgement from every
other reply, and only after it the next setup record is made. -/

namespace Sys2Proof.Machine

/-! ### What REC.CLS accepts as OK -/

theorem classOfCode_eq_ok_iff (c : BitVec 16) : classOfCode c = classOk ↔ isAckOk c = true := by
  unfold classOfCode
  split_ifs with hok hname <;> simp [hok, classOk, classError, classUnknown]

theorem replyClass_eq_ok_iff (a : BitVec 16) (b : List Byte) :
    replyClass a b = classOk ↔
      isAckFrame a b = true ∧ isAckOk (BitVec.ofNat 16 (rd16 b 4)) = true := by
  rw [← classOfCode_eq_ok_iff]
  unfold replyClass
  split_ifs with hack <;> simp [hack, classOk, classUnknown]

/-- The OK acknowledgement is the well-framed reply of class OK (40_record_codec.md R137, R138). -/
theorem okReply_iff (c : BlockConfig) (b : Datagram) :
    OkReply c b ↔ wellFramed b = true ∧ replyClass c.ackRecid b = classOk := by
  rw [wellFramed_iff, replyClass_eq_ok_iff, isAckFrame_iff]
  constructor
  · rintro ⟨hlen, hsize, hid, hok⟩
    exact ⟨⟨by omega, by omega⟩, ⟨hlen, hid⟩, hok⟩
  · rintro ⟨⟨-, hsize⟩, ⟨hlen, hid⟩, hok⟩
    exact ⟨hlen, by omega, hid, hok⟩

/-- REC.CLS in IDLE ends in READY with the class OK exactly for the OK acknowledgement. -/
theorem runRecCls_ok_iff {s : State} (hs : s.st = .idle) :
    (runRecCls s).st = .ready ∧ (runRecCls s).rclass = classOk ↔ OkReply s.cfg s.inBuf := by
  rw [okReply_iff]
  by_cases hframed : wellFramed s.inBuf = true
  · simp [runRecCls_of_wellFramed hs hframed, replied, hframed]
  · simp [runRecCls_of_not_wellFramed hs hframed, hframed]

/-! ### The turn -/

/-- The state after a reply is read by LOAD, REC.CLS and CLR (46_host_transfer_session.md R260). -/
def afterReply (b : Datagram) (s : State) : State := clear (runRecCls { s with inBuf := b })

@[simp] theorem afterReply_st (b : Datagram) (s : State) : (afterReply b s).st = .idle := rfl

@[simp] theorem afterReply_cfg (b : Datagram) (s : State) : (afterReply b s).cfg = s.cfg := by
  simp [afterReply]

@[simp] theorem afterReply_handed (b : Datagram) (s : State) : (afterReply b s).handed = s.handed := by
  simp [afterReply, runRecCls]

@[simp] theorem afterReply_reports (b : Datagram) (s : State) : (afterReply b s).reports = s.reports := by
  simp [afterReply, runRecCls]

theorem primingReply_of_okReply {b : Datagram} {s : State} (ss : Session) (hs : s.st = .idle)
    (hfit : Fits s.cfg b.length) (hok : OkReply s.cfg b) :
    primingReply b ss s = primingOk ss (afterReply b s) :=
  (primingReply_of_fits ss hs hfit).trans (if_pos ((runRecCls_ok_iff (s := { s with inBuf := b }) hs).2 hok))

theorem primingReply_of_not_okReply {b : Datagram} {s : State} (ss : Session) (hs : s.st = .idle)
    (hfit : Fits s.cfg b.length) (hok : ¬OkReply s.cfg b) :
    primingReply b ss s = failSession (.primingFailed b) ss (runRecCls { s with inBuf := b }) :=
  (primingReply_of_fits ss hs hfit).trans
    (if_neg fun h => hok ((runRecCls_ok_iff (s := { s with inBuf := b }) hs).1 h))

/-- After an OK with a setup record left, that record is the one in flight. -/
theorem primingOk_of_left {ss : Session} {r next : CommandRecord} {more : List CommandRecord}
    (h : ss.left = r :: next :: more) (s : State) :
    primingOk ss s = issueRecord next { ss with left := next :: more } ss s := by
  simp only [primingOk, h, List.tail_cons]

/-- A session that fails with the block in a state reached from `s` has ended since `s`. -/
theorem failSession_ends_since {s t : State} (f : SessionFailure) (ss : Session) (h : t.reports = s.reports) :
    SessionEnds s (failSession f ss t) ss.phase
      { ss with phase := .failed, failure := some f, inFlight := false } :=
  { failSession_ends f ss t with reports := h ▸ (failSession_ends f ss t).reports }

theorem step_of_primingReply {s : State} {ss : Session} {b : Datagram} {rest : List HostAction}
    (hses : s.session = some ss) (hp : ss.phase = .priming) (hfl : ss.inFlight = true)
    (hpend : s.pending = .session (.reply b) :: rest) :
    step s = .next (primingReply b ss { s with pending := rest }) := by
  rw [step_of_session hpend, sessionTurn_of_some (s := { s with pending := rest }) _ hses]
  simp only [sessionEvent, sessionReply, hp, hfl, if_true]

/-- Settles O54: the reply is taken or not, is the OK acknowledgement or not, and the next record has a frame or not. -/
theorem primingGoesOnOnlyAfterOk : Obligations.PrimingGoesOnOnlyAfterOk := by
  intro s ss b rest hses hp hfl hs hpend
  have hstep := step_of_primingReply hses hp hfl hpend
  rw [hstep, ← hp]
  refine ⟨fun r next more hleft hfit hok => ?_, fun hfit hok => ⟨_, rfl, ?_⟩, fun hfit => ⟨_, rfl, ?_⟩⟩
  · rw [primingReply_of_okReply (s := { s with pending := rest }) ss hs hfit hok, primingOk_of_left hleft, issueRecord]
    refine ⟨fun henc => ?_, fun henc => ⟨_, rfl, ?_⟩⟩
    · rw [makeFrame_of_encodable ss _ (afterReply_st _ _) (by simpa using henc)]
      refine ⟨_, rfl, ?_⟩
      simp [afterFrame, withRecord, frameOf, sendRequest]
    · rw [makeFrame_of_not_encodable ss _ (afterReply_st _ _) (by simpa using henc)]
      exact failSession_ends_since _ ss ((blockStep_encodeRecord _ _).reports.trans (afterReply_reports _ _))
  · rw [primingReply_of_not_okReply (s := { s with pending := rest }) ss hs hfit hok]
    exact failSession_ends_since _ ss (runOp_reports _ _)
  · rw [primingReply_of_not_fits (s := { s with pending := rest }) ss hs hfit]
    exact failSession_ends_since _ ss rfl

end Sys2Proof.Machine
end

section
/-! The compressor as a function of the runs of equal bytes (41_rle_codec.md R158, R160, R161, R164): bit runs against
solid bytes, one descriptor per run of at most `RLE_LEN_MAX` solid bytes, and the induction along these runs. -/

namespace Sys2Proof.Machine

/-! ### Solid bytes and their bits -/

/-- The byte of eight equal bits. -/
def solidByte (b : Bool) : Byte := if b then 0xFF else 0x00

theorem solid_iff (v : Byte) : solid v = true ↔ v = solidByte (v.getLsbD 7) := by
  simp only [solid, Bool.or_eq_true, beq_iff_eq]
  constructor
  · rintro (rfl | rfl) <;> rfl
  · intro h
    cases hb : v.getLsbD 7 with
    | false => exact .inl (by rwa [hb] at h)
    | true => exact .inr (by rwa [hb] at h)

@[simp] theorem byteBits_solidByte (b : Bool) : byteBits (solidByte b) = List.replicate 8 b := by
  cases b <;> rfl

theorem getLsbD_solidByte (b : Bool) {i : Nat} (hi : i < 8) : (solidByte b).getLsbD i = b := by
  cases b with
  | false => simp [solidByte]
  | true => interval_cases i <;> rfl

/-- Only the solid byte has eight equal bits. -/
theorem eq_solidByte_of_byteBits {w : Byte} {b : Bool} (h : byteBits w = List.replicate 8 b) : w = solidByte b := by
  apply BitVec.eq_of_getLsbD_eq
  intro i hi
  rw [getLsbD_solidByte b hi]
  simp only [byteBits, List.replicate, List.cons.injEq] at h
  interval_cases i <;> simp only [h]

/-! ### Bit runs and byte runs -/

/-- The number of leading bits of a row that are `b`. -/
def leadingBits (b : Bool) (row : List Byte) : Nat := ((rowBits row).takeWhile (· == b)).length

theorem bitRun_cons (v : Byte) (rest : List Byte) : bitRun (v :: rest) = leadingBits (v.getLsbD 7) (v :: rest) := by
  simp [bitRun, leadingBits, rowBits, byteBits, Nat.add_comm]

theorem leadingBits_solidByte_cons (b : Bool) (rest : List Byte) :
    leadingBits b (solidByte b :: rest) = 8 + leadingBits b rest := by
  simp [leadingBits, rowBits]
  omega

/-- A run of bits ends within a byte that is not solid in the run's bit. -/
theorem leadingBits_cons_lt {w : Byte} {b : Bool} (h : w ≠ solidByte b) (rest : List Byte) :
    leadingBits b (w :: rest) < 8 := by
  have hlt : ((byteBits w).takeWhile (· == b)).length < 8 := by
    refine lt_of_le_of_ne (List.takeWhile_sublist _).length_le fun heq => h (eq_solidByte_of_byteBits ?_)
    have hall : (byteBits w).takeWhile (· == b) = byteBits w := (List.takeWhile_sublist _).eq_of_length heq
    refine List.eq_replicate_iff.2 ⟨rfl, fun x hx => ?_⟩
    simpa using List.takeWhile_eq_self_iff.1 hall x hx
  rw [leadingBits, rowBits, List.flatMap_cons, List.takeWhile_append, if_neg (fun heq => hlt.ne (heq.trans rfl))]
  exact hlt

/-- The whole bytes of a bit run are the solid bytes it begins with (41_rle_codec.md R159, R160). -/
theorem leadingBits_div_eight (b : Bool) (row : List Byte) :
    leadingBits b row / 8 = (row.takeWhile (· == solidByte b)).length := by
  induction row with
  | nil => simp [leadingBits, rowBits]
  | cons w rest ih =>
    by_cases hw : w = solidByte b
    · subst hw
      rw [leadingBits_solidByte_cons, Nat.add_div_left _ (by decide), ih]
      simp
    · rw [Nat.div_eq_of_lt (leadingBits_cons_lt hw rest)]
      simp [hw]

theorem byteRun_cons (v : Byte) (rest : List Byte) :
    byteRun (v :: rest) = ((v :: rest).takeWhile (· == v)).length := by
  simp [byteRun, Nat.add_comm]

theorem bitRun_div_eight {v : Byte} (hv : solid v = true) (rest : List Byte) :
    bitRun (v :: rest) / 8 = byteRun (v :: rest) := by
  rw [bitRun_cons, leadingBits_div_eight, ← (solid_iff v).1 hv, byteRun_cons]

/-- A bit run from a byte's first bit has eight bits exactly where the byte is solid (41_rle_codec.md R160). -/
theorem eight_le_bitRun_iff (v : Byte) (rest : List Byte) : 8 ≤ bitRun (v :: rest) ↔ solid v = true := by
  rw [bitRun_cons, solid_iff]
  constructor
  · intro h
    by_contra hne
    exact absurd (leadingBits_cons_lt hne rest) (by omega)
  · intro h
    have hrun := leadingBits_solidByte_cons (v.getLsbD 7) rest
    rw [← h] at hrun
    omega

theorem encDescsFrom_eq_bytewiseFrom (m fuel : Nat) (row : List Byte) :
    encDescsFrom m fuel row = bytewiseFrom m fuel row := by
  induction fuel generalizing row with
  | zero => rfl
  | succ fuel ih =>
    cases row with
    | nil => rfl
    | cons v rest =>
      by_cases hv : solid v = true
      · simp only [encDescsFrom, bytewiseFrom, eight_le_bitRun_iff, hv, if_true, bitRun_div_eight hv, ih]
      · simp only [encDescsFrom, bytewiseFrom, eight_le_bitRun_iff, hv, if_false, Bool.false_eq_true, ih]

/-- Settles O15: the two loops agree at each step, whatever fuel is left. -/
theorem encrowByBitsIsEncrowByBytes : Obligations.EncrowByBitsIsEncrowByBytes :=
  fun m row => encDescsFrom_eq_bytewiseFrom m row.length row

/-! ### One descriptor at a time -/

/-- Fuel for every byte of the row is enough, where each step passes over one. -/
theorem bytewiseFrom_eq_of_length_le {m : Nat} (hm : 1 ≤ m) {fuel fuel' : Nat} {row : List Byte}
    (h : row.length ≤ fuel) (h' : row.length ≤ fuel') : bytewiseFrom m fuel row = bytewiseFrom m fuel' row := by
  induction fuel generalizing fuel' row with
  | zero =>
    obtain rfl : row = [] := List.eq_nil_of_length_eq_zero (by omega)
    cases fuel' <;> rfl
  | succ fuel ih =>
    cases row with
    | nil => cases fuel' <;> rfl
    | cons v rest =>
      obtain ⟨fuel', rfl⟩ : ∃ n, fuel' = n + 1 := ⟨fuel' - 1, by simp at h'; omega⟩
      have hrun : 1 ≤ byteRun (v :: rest) := by simp [byteRun]
      simp only [List.length_cons] at h h'
      rw [bytewiseFrom, bytewiseFrom]
      split
      · exact congrArg _ (ih (by simp; omega) (by simp; omega))
      · exact congrArg _ (ih (by omega) (by omega))

theorem encDescs_eq_bytewiseFrom {m fuel : Nat} {row : List Byte} (hm : 1 ≤ m) (h : row.length ≤ fuel) :
    encDescs m row = bytewiseFrom m fuel row :=
  (encDescsFrom_eq_bytewiseFrom m row.length row).trans (bytewiseFrom_eq_of_length_le hm le_rfl h)

@[simp] theorem encDescs_nil (m : Nat) : encDescs m [] = [] := rfl

/-- A byte of two colours is a Raw descriptor. -/
theorem encDescs_cons_of_not_solid {m : Nat} (hm : 1 ≤ m) {v : Byte} (hv : ¬solid v = true) (rest : List Byte) :
    encDescs m (v :: rest) = .raw 0 v :: encDescs m rest := by
  rw [encDescs_eq_bytewiseFrom hm (fuel := rest.length + 1) (by simp), bytewiseFrom, if_neg hv,
    ← encDescs_eq_bytewiseFrom hm le_rfl]

theorem byteRun_replicate_append {k : Nat} (hk : 1 ≤ k) (v : Byte) (rest : List Byte) :
    byteRun (List.replicate k v ++ rest) = k + (rest.takeWhile (· == v)).length := by
  obtain ⟨k, rfl⟩ : ∃ n, k = n + 1 := ⟨k - 1, by omega⟩
  rw [List.replicate_succ, List.cons_append, byteRun, List.takeWhile_append]
  simp
  omega

/-- `k` equal bytes at the head of a row are one step of the compressor: the cap, or the whole of a shorter run. -/
structure IsRunStep (m : Nat) (v : Byte) (k : Nat) (rest : List Byte) : Prop where
  pos : 1 ≤ k
  le : k ≤ m
  ends : rest.head? = some v → k = m

/-- A step over solid bytes is one RLE descriptor. -/
theorem encDescs_replicate_append {m k : Nat} {v : Byte} {rest : List Byte} (hv : solid v = true)
    (h : IsRunStep m v k rest) :
    encDescs m (List.replicate k v ++ rest) = .rle (v.getLsbD 7) 0 (BitVec.ofNat 11 k) :: encDescs m rest := by
  obtain ⟨hpos, hle, hends⟩ := h
  have hm : 1 ≤ m := hpos.trans hle
  have hlen : min (byteRun (List.replicate k v ++ rest)) m = k := by
    rw [byteRun_replicate_append hpos]
    by_cases hk : k = m
    · omega
    · cases rest with
      | nil => simpa using hle
      | cons w rest =>
        have hw : w ≠ v := fun hw => hk (hends (by rw [hw]; rfl))
        simpa [hw] using hle
  obtain ⟨j, rfl⟩ : ∃ j, k = j + 1 := ⟨k - 1, by omega⟩
  have hdrop : (List.replicate (j + 1) v ++ rest).drop (j + 1) = rest := List.drop_left' (by simp)
  rw [encDescs_eq_bytewiseFrom hm (fuel := j + rest.length + 1) (by simp; omega)]
  rw [List.replicate_succ, List.cons_append] at hlen hdrop ⊢
  simp only [bytewiseFrom, if_pos hv, hlen, hdrop]
  rw [← encDescs_eq_bytewiseFrom hm (by omega)]

/-! ### Induction along the compressor's steps -/

theorem exists_eq_replicate_append (v : Byte) (row : List Byte) :
    ∃ n tail, row = List.replicate n v ++ tail ∧ tail.head? ≠ some v := by
  induction row with
  | nil => exact ⟨0, [], rfl, by simp⟩
  | cons w rest ih =>
    by_cases hw : w = v
    · obtain ⟨n, tail, hrest, htail⟩ := ih
      exact ⟨n + 1, tail, by rw [hw, hrest]; rfl, htail⟩
    · exact ⟨0, w :: rest, rfl, by simpa using hw⟩

/-- A row that begins with `v` begins with a step over bytes `v`. -/
theorem exists_isRunStep {m : Nat} (hm : 1 ≤ m) (v : Byte) (rest : List Byte) :
    ∃ k tail, v :: rest = List.replicate k v ++ tail ∧ IsRunStep m v k tail := by
  obtain ⟨n, tail, rfl, htail⟩ := exists_eq_replicate_append v rest
  have hsplit : n + 1 = min (n + 1) m + (n + 1 - min (n + 1) m) := by omega
  refine ⟨min (n + 1) m, List.replicate (n + 1 - min (n + 1) m) v ++ tail, ?_, by omega, by omega, fun hhead => ?_⟩
  · rw [← List.append_assoc, List.replicate_append_replicate, ← hsplit]
    rfl
  · by_contra hk
    rw [show n + 1 - min (n + 1) m = 0 by omega] at hhead
    exact htail hhead

/-- Every row is built from the steps of the compressor (41_rle_codec.md R160). -/
theorem rowInduction {m : Nat} (hm : 1 ≤ m) {P : List Byte → Prop} (nil : P [])
    (raw : ∀ v rest, ¬solid v = true → P rest → P (v :: rest))
    (run : ∀ v k rest, solid v = true → IsRunStep m v k rest → P rest → P (List.replicate k v ++ rest))
    (row : List Byte) : P row := by
  induction hn : row.length using Nat.strong_induction_on generalizing row with
  | _ n ih =>
    cases row with
    | nil => exact nil
    | cons v rest =>
      by_cases hv : solid v = true
      · obtain ⟨k, tail, hrow, hstep⟩ := exists_isRunStep hm v rest
        have hlen := congrArg List.length hrow
        have hpos := hstep.pos
        simp only [List.length_append, List.length_replicate] at hlen
        exact hrow ▸ run v k tail hv hstep (ih _ (by omega) tail rfl)
      · exact raw v rest hv (ih _ (by simp at hn; omega) rest rfl)

/-! ### Greedy split of a long run (41_rle_codec.md R161) -/

/-- The compressor takes a row apart between two bytes that belong to no common solid run. -/
theorem encDescs_append {m : Nat} (hm : 1 ≤ m) {pre rest : List Byte}
    (h : ∀ v, solid v = true → pre.getLast? = some v → rest.head? ≠ some v) :
    encDescs m (pre ++ rest) = encDescs m pre ++ encDescs m rest := by
  induction pre using rowInduction hm with
  | nil => simp
  | raw w pre hw ih =>
    have ih' := ih fun v hv hlast => h v hv (by simp [List.getLast?_cons, hlast])
    rw [List.cons_append, encDescs_cons_of_not_solid hm hw, encDescs_cons_of_not_solid hm hw, ih', List.cons_append]
  | run w k pre hw hstep ih =>
    have ih' := ih fun v hv hlast => h v hv (by simp [List.getLast?_append, hlast])
    have hstep' : IsRunStep m w k (pre ++ rest) := by
      refine { hstep with ends := fun hhead => ?_ }
      cases pre with
      | nil =>
        have hlast : (List.replicate k w ++ []).getLast? = some w := by
          have := hstep.pos
          simp [List.getLast?_replicate]; omega
        exact absurd hhead (h w hw hlast)
      | cons x pre => exact hstep.ends hhead
    rw [List.append_assoc, encDescs_replicate_append hw hstep', encDescs_replicate_append hw hstep, ih',
      List.cons_append]

theorem encDescs_replicate {m : Nat} (hm : 1 ≤ m) {v : Byte} (hv : solid v = true) (n : Nat) :
    encDescs m (List.replicate n v) =
      List.replicate (n / m) (.rle (v.getLsbD 7) 0 (BitVec.ofNat 11 m)) ++
        if n % m = 0 then [] else [.rle (v.getLsbD 7) 0 (BitVec.ofNat 11 (n % m))] := by
  induction n using Nat.strong_induction_on with
  | _ n ih =>
    rcases lt_or_ge n m with hlt | hge
    · rw [Nat.div_eq_of_lt hlt, Nat.mod_eq_of_lt hlt]
      split_ifs with hn
      · rw [hn]; rfl
      · have hstep : IsRunStep m v n [] := ⟨by omega, hlt.le, by simp⟩
        simpa using encDescs_replicate_append hv hstep
    · have hstep : IsRunStep m v m (List.replicate (n - m) v) := ⟨hm, le_rfl, fun _ => rfl⟩
      have hsplit : List.replicate n v = List.replicate m v ++ List.replicate (n - m) v := by
        rw [List.replicate_append_replicate, Nat.add_sub_cancel' hge]
      rw [hsplit, encDescs_replicate_append hv hstep, ih (n - m) (by omega), Nat.div_eq_sub_div hm hge,
        Nat.mod_eq_sub_mod hge]
      rfl

/-- Settles O16: the row is taken apart before and after the run. -/
theorem longRunsAreSplitAt2047 : Obligations.LongRunsAreSplitAt2047 := by
  intro pre v n tail hv hpre htail hempty
  have hrun : encDescs 2047 (List.replicate n v ++ tail) =
      encDescs 2047 (List.replicate n v) ++ encDescs 2047 tail := by
    refine encDescs_append (by decide) fun w _ hlast hhead => ?_
    obtain rfl : v = w := (List.eq_of_mem_replicate (List.mem_of_getLast? hlast)).symm
    exact htail hhead
  have hbefore : encDescs 2047 (pre ++ (List.replicate n v ++ tail)) =
      encDescs 2047 pre ++ encDescs 2047 (List.replicate n v ++ tail) := by
    refine encDescs_append (by decide) fun w _ hlast hhead => ?_
    cases n with
    | zero => simp [hempty rfl] at hlast
    | succ n =>
      obtain rfl : v = w := by simpa [List.replicate_succ] using hhead
      exact hpre hlast
  rw [List.append_assoc, hbefore, hrun, encDescs_replicate (by decide) hv]
  simp only [List.append_assoc]
  rfl

/-! ### How many descriptors (41_rle_codec.md R164) -/

/-- Every descriptor passes over at least one byte. -/
theorem length_encDescs_le {m : Nat} (hm : 1 ≤ m) (row : List Byte) : (encDescs m row).length ≤ row.length := by
  induction row using rowInduction hm with
  | nil => simp
  | raw v rest hv ih => simpa [encDescs_cons_of_not_solid hm hv] using ih
  | run v k rest hv hstep ih =>
    have hpos := hstep.pos
    simp [encDescs_replicate_append hv hstep]
    omega

theorem encDescs_ne_nil {m : Nat} (hm : 1 ≤ m) {row : List Byte} (h : row ≠ []) : encDescs m row ≠ [] := by
  induction row using rowInduction hm with
  | nil => exact absurd rfl h
  | raw v rest hv => simp [encDescs_cons_of_not_solid hm hv]
  | run v k rest hv hstep => simp [encDescs_replicate_append hv hstep]

/-- No solid byte of the row is followed by an equal byte. -/
def NoSolidPair (row : List Byte) : Prop := row.IsChain fun v w => v = w → ¬solid v = true

theorem noSolidPair_cons (v : Byte) (rest : List Byte) :
    NoSolidPair (v :: rest) ↔ (rest.head? = some v → ¬solid v = true) ∧ NoSolidPair rest := by
  simp only [NoSolidPair, List.isChain_cons, Option.mem_def]
  refine and_congr_left fun _ => ⟨fun h hhead => h v hhead rfl, ?_⟩
  rintro h w hhead rfl
  exact h hhead

theorem noSolidPair_iff_getD (row : List Byte) :
    NoSolidPair row ↔
      ∀ i, i + 1 < row.length → row.getD i 0 = row.getD (i + 1) 0 →
        row.getD i 0 ≠ 0x00 ∧ row.getD i 0 ≠ 0xFF := by
  rw [NoSolidPair, List.isChain_iff_getElem]
  refine forall₂_congr fun i hi => ?_
  have hi' : i < row.length := by omega
  simp [solid, hi, hi']

/-- A descriptor for every byte, exactly where no two solid bytes can share one. -/
theorem length_encDescs_eq_iff {m : Nat} (hm : 2 ≤ m) (row : List Byte) :
    (encDescs m row).length = row.length ↔ NoSolidPair row := by
  have hm1 : 1 ≤ m := by omega
  induction row using rowInduction hm1 with
  | nil => simp [NoSolidPair]
  | raw v rest hv ih => simp [encDescs_cons_of_not_solid hm1 hv, noSolidPair_cons, hv, ih]
  | run v k rest hv hstep ih =>
    have hle := length_encDescs_le hm1 rest
    rw [encDescs_replicate_append hv hstep]
    by_cases hk : k = 1
    · have hhead : rest.head? ≠ some v := fun h => by have := hstep.ends h; omega
      subst hk
      simp [noSolidPair_cons, hhead, ih, Nat.add_comm]
    · obtain ⟨j, rfl⟩ : ∃ j, k = j + 2 := ⟨k - 2, by have := hstep.pos; omega⟩
      have hpair : ¬NoSolidPair (List.replicate (j + 2) v ++ rest) := fun h =>
        ((noSolidPair_cons v _).1 h).1 rfl hv
      refine iff_of_false ?_ hpair
      simp
      omega

theorem length_encrow (c : BlockConfig) (row : List Byte) :
    (encrow c row).length = 2 * (encDescs c.rleLenMax row).length := by
  simp [encrow, descBytes, List.length_flatMap, Nat.mul_comm]

theorem length_rasterRow_le (data : List Byte) (bpl k : Nat) : (rasterRow data bpl k).length ≤ bpl := by
  simp [rasterRow, slice, Nat.succ_mul]

/-- Settles O19: the stream is two bytes for each descriptor. -/
theorem encrowLengthBound : Obligations.EncrowLengthBound := by
  intro c hm
  have hm1 : 1 ≤ c.rleLenMax := by omega
  have hbound (row : List Byte) : (encrow c row).length ≤ 2 * row.length := by
    have := length_encDescs_le hm1 row
    rw [length_encrow]
    omega
  have heven (row : List Byte) : (encrow c row).length % 2 = 0 := by rw [length_encrow, Nat.mul_mod_right]
  refine ⟨fun row => ⟨hbound row, heven row, fun hrow hnil => ?_, ?_⟩, fun data bpl => ?_⟩
  · have hlen := length_encrow c row
    have hpos := List.length_pos_iff.2 (encDescs_ne_nil hm1 hrow)
    rw [hnil, List.length_nil] at hlen
    omega
  · rw [← noSolidPair_iff_getD, ← length_encDescs_eq_iff hm, length_encrow]
    omega
  · have hrow : ∀ n ∈ (encodedRows c data bpl).map List.length, n ≤ 2 * bpl := by
      simp only [encodedRows, List.map_map, List.mem_map]
      rintro _ ⟨k, _, rfl⟩
      exact (hbound _).trans (Nat.mul_le_mul_left 2 (length_rasterRow_le data bpl k))
    have hsum := List.sum_le_card_nsmul _ _ hrow
    simpa [encodedRows, Nat.mul_comm] using hsum

end Sys2Proof.Machine
end

section
/-! RLE.DECROW (41_rle_codec.md R151, R152, R163): what a descriptor word expands to, where the loop over a stream
stops, and the decoding of an encoded row. -/

namespace Sys2Proof.Machine

/-! ### The expansion of a word (41_rle_codec.md R151) -/

/-- The default layout leaves every bit in its place (30_encoding.md R97, R98). -/
theorem gatherBits_id (w : BitVec 16) : gatherBits (Vector.ofFn id) w = w := by
  apply BitVec.eq_of_getLsbD_eq
  intro i hi
  simpa using gatherBits_getLsbD (Vector.ofFn id) w ⟨i, hi⟩

theorem wordDesc_defaultLayout (w : BitVec 16) :
    wordDesc Config.defaultLayout w =
      if w.getLsbD 15 = true then .rle (w.getLsbD 14) (w.extractLsb' 11 3) (w.extractLsb' 0 11)
      else .raw (w.extractLsb' 8 7) (w.extractLsb' 0 8) := by
  simp [wordDesc, Config.defaultLayout, gatherBits_id]

/-- Settles O12: the fields of the word by the default layout, then their expansion. -/
theorem expansionOfADescriptorWord : Obligations.ExpansionOfADescriptorWord := by
  intro w
  rw [wordDesc_defaultLayout]
  by_cases htag : w.getLsbD 15 = true
  · rw [if_pos htag, if_pos htag, expand, BitVec.extractLsb'_toNat, Nat.shiftRight_zero]
  · have hvalue : w.extractLsb' 0 8 = BitVec.ofNat 8 (w.toNat % 256) := by
      apply BitVec.eq_of_toNat_eq
      simp
    rw [if_neg htag, if_neg htag, expand, hvalue]

/-! ### The first fault of a stream (60_exceptions.md R289) -/

/-- The loop passes over descriptors that the policy admits and whose bytes the capacity holds, to the fault behind
them. -/
theorem expandAll_append_error {cfg : BlockConfig} {pre ds : List Desc} {f : BlockFault} {used : Nat}
    (hres : ∀ d ∈ pre, reservedDesc cfg d = false) (hfit : Fits cfg (used + (pre.flatMap expand).length))
    (h : expandAll cfg (used + (pre.flatMap expand).length) ds = .error f) :
    expandAll cfg used (pre ++ ds) = .error f := by
  induction pre generalizing used with
  | nil => exact h
  | cons d pre ih =>
    rw [List.flatMap_cons, List.length_append, ← Nat.add_assoc] at hfit h
    have hd : overCapacity cfg (used + (expand d).length) = false :=
      (overCapacity_eq_false_iff _ _).2 (hfit.mono (Nat.le_add_right _ _))
    have hrest := ih (fun e he => hres e (.tail d he)) hfit h
    simp [expandAll, hres d, hd, hrest]

/-- RLE.DECROW in IDLE of a stream whose loop ends in a fault. -/
theorem runRleDecRow_of_expandAll_error {s : State} {f : BlockFault} (hs : s.st = .idle)
    (heven : s.inBuf.length % 2 = 0) (h : expandAll s.cfg 0 (streamDescs s.cfg.layout s.inBuf) = .error f) :
    runRleDecRow s = faulted (faultCodeOf f) (faultParamOf f) s := by
  have hop : rleDecRowOp s = .error f := by simp [rleDecRowOp, heven, h]
  exact runOp_error hs hop

/-- Settles O14: at the first descriptor with a fault, the policy's test and then the capacity's. -/
theorem rleDecRowFaultOrder : Obligations.RleDecRowFaultOrder := by
  intro s pre post d hs heven hstream hres hfit
  rw [← Nat.zero_add (pre.flatMap expand).length] at hfit
  refine ⟨fun hd => ?_, fun hd hover => ?_⟩
  · have hloop : expandAll s.cfg 0 (streamDescs s.cfg.layout s.inBuf) = .error .reservedDescriptor :=
      hstream ▸ expandAll_append_error hres hfit (by simp [expandAll, hd])
    exact congrArg Host.Outcome.next (runRleDecRow_of_expandAll_error hs heven hloop)
  · have hcap : overCapacity s.cfg (0 + (pre.flatMap expand).length + (expand d).length) = true :=
      (overCapacity_iff _ _).2 (by simpa using hover)
    have hloop : expandAll s.cfg 0 (streamDescs s.cfg.layout s.inBuf) = .error .bufferOverflow :=
      hstream ▸ expandAll_append_error hres hfit (by simp only [expandAll, hd, hcap, if_true]; rfl)
    exact congrArg Host.Outcome.next (runRleDecRow_of_expandAll_error hs heven hloop)

/-! ### The round trip (41_rle_codec.md R163) -/

theorem expand_rle_of_solid {m k : Nat} {v : Byte} (hm : m ≤ 2047) (hv : solid v = true) (hk : k ≤ m) :
    expand (.rle (v.getLsbD 7) 0 (BitVec.ofNat 11 k)) = List.replicate k v := by
  have hlen : (BitVec.ofNat 11 k).toNat = k := by simp; omega
  have hfill : (if v.getLsbD 7 = true then (0xFF : Byte) else 0x00) = v := ((solid_iff v).1 hv).symm
  rw [expand, hlen, hfill]

/-- The expansions of a row's descriptors, in order, are the row. -/
theorem flatMap_expand_encDescs {m : Nat} (hm : 1 ≤ m) (hm' : m ≤ 2047) (row : List Byte) :
    (encDescs m row).flatMap expand = row := by
  induction row using rowInduction hm with
  | nil => rfl
  | raw v rest hv ih => rw [encDescs_cons_of_not_solid hm hv, List.flatMap_cons, ih, expand, List.singleton_append]
  | run v k rest hv hstep ih =>
    rw [encDescs_replicate_append hv hstep, List.flatMap_cons, ih, expand_rle_of_solid hm' hv hstep.le]

/-- The compressor writes `transitionPos` 0, which every policy admits (41_rle_codec.md R153). -/
theorem reservedDesc_of_mem_encDescs {m : Nat} (hm : 1 ≤ m) {row : List Byte} {d : Desc} (hd : d ∈ encDescs m row)
    (cfg : BlockConfig) : reservedDesc cfg d = false := by
  induction row using rowInduction hm with
  | nil => simp at hd
  | raw v rest hv ih =>
    rw [encDescs_cons_of_not_solid hm hv] at hd
    rcases List.mem_cons.1 hd with rfl | hd
    · rfl
    · exact ih hd
  | run v k rest hv hstep ih =>
    rw [encDescs_replicate_append hv hstep] at hd
    rcases List.mem_cons.1 hd with rfl | hd
    · simp [reservedDesc]
    · exact ih hd

theorem streamDescs_descBytes_append {L : RleLayout} (h : L.valid = true) (d : Desc) (b : List Byte) :
    streamDescs L (descBytes L d ++ b) = d :: streamDescs L b := by
  have hcount : (descBytes L d ++ b).length / 2 = b.length / 2 + 1 := by simp [descBytes]
  have hskip (k : Nat) : rd16 (descBytes L d ++ b) (2 * (k + 1)) = rd16 b (2 * k) := rd16_be16_skip _ _ _
  have hfirst : wordDesc L (BitVec.ofNat 16 (rd16 (descBytes L d ++ b) (2 * 0))) = d := by
    simp [descBytes, wordDesc_descWord h]
  simp only [streamDescs, hcount, List.range_succ_eq_map, List.map_cons, List.map_map, Function.comp_def,
    Nat.succ_eq_add_one, hskip, hfirst]

/-- A stream reads back as the descriptors it was written from (30_encoding.md R99). -/
theorem streamDescs_flatMap_descBytes {L : RleLayout} (h : L.valid = true) (ds : List Desc) :
    streamDescs L (ds.flatMap (descBytes L)) = ds := by
  induction ds with
  | nil => simp [streamDescs]
  | cons d ds ih => rw [List.flatMap_cons, streamDescs_descBytes_append h, ih]

theorem streamDescs_encrow {c : BlockConfig} (h : c.layout.valid = true) (row : List Byte) :
    streamDescs c.layout (encrow c row) = encDescs c.rleLenMax row :=
  streamDescs_flatMap_descBytes h _

/-- RLE.DECROW in IDLE of an encoded row, under any policy and any capacity that holds the row. -/
theorem runRleDecRow_of_encrow {c : BlockConfig} {u : State} {row : List Byte} (hu : u.st = .idle)
    (hc : c.valid = true) (hL : u.cfg.layout = c.layout) (hfit : Fits u.cfg row.length)
    (hin : u.inBuf = encrow c row) : runRleDecRow u = produced [row] u := by
  obtain ⟨hlayout, -, -, -, -, -, hm, hm'⟩ := c.valid_iff.1 hc
  have hstream : streamDescs u.cfg.layout u.inBuf = encDescs c.rleLenMax row := by
    rw [hL, hin, streamDescs_encrow hlayout]
  have hrow : (streamDescs u.cfg.layout u.inBuf).flatMap expand = row := by
    rw [hstream, flatMap_expand_encDescs hm hm']
  have heven : u.inBuf.length % 2 = 0 := by rw [hin, length_encrow, Nat.mul_mod_right]
  have hop := rleDecRowOp_eq_ok heven (fun d hd => reservedDesc_of_mem_encDescs hm (hstream ▸ hd) _)
    (by rwa [hrow])
  rw [hrow] at hop
  exact runOp_ok hu hop

end Sys2Proof.Machine
end

section
/-! RLE.ENCROW and RLE.ENCIMG (41_rle_codec.md R162, R163, R165, R166): their tests and results, and what RLE.DECROW
makes of them. -/

namespace Sys2Proof.Machine

/-! ### Tests and results -/

theorem runRleEncRow_of_legal {s : State} (hs : s.st = .idle) (hw : s.width.toNat ≠ 0) (hw8 : s.width.toNat % 8 = 0)
    (hlen : s.inBuf.length = s.width.toNat / 8) : runRleEncRow s = produced [encrow s.cfg s.inBuf] s := by
  have hop : rleEncRowOp s = .ok { outq := [encrow s.cfg s.inBuf], reply := none } := by
    simp [rleEncRowOp, (widthOk_iff s).2 ⟨hw, hw8⟩, hlen]
  exact runOp_ok hs hop

theorem runRleEncImg_of_legal {s : State} (hs : s.st = .idle) (hw : s.width.toNat ≠ 0) (hw8 : s.width.toNat % 8 = 0)
    (hlen : s.inBuf.length % (s.width.toNat / 8) = 0) :
    runRleEncImg s = produced (encodedRows s.cfg s.inBuf (s.width.toNat / 8)) s := by
  have hop : rleEncImgOp s = .ok { outq := encodedRows s.cfg s.inBuf (s.width.toNat / 8), reply := none } := by
    simp [rleEncImgOp, (widthOk_iff s).2 ⟨hw, hw8⟩, hlen]
  exact runOp_ok hs hop

/-- Settles O17: the two tests of R162 in order, then the encoded row. -/
theorem rleEncRowChecksAndCompresses : Obligations.RleEncRowChecksAndCompresses := by
  intro s
  refine congrArg Host.Outcome.next (runOp_eq_stateTested fun hs => ?_)
  split_ifs with hwidth hlen
  · exact runOp_error (f := .invalidParameter .width) hs (if_pos ((widthOk_false_iff s).2 hwidth))
  · exact runOp_error (f := .invalidParameter .rowLength) hs
      ((if_neg (mt (widthOk_false_iff s).1 hwidth)).trans (if_pos hlen))
  · exact runRleEncRow_of_legal hs (by omega) (by omega) (by omega)

/-- Settles O20: the two tests of R165 in order, then the encoded rows. -/
theorem rleEncImgChecksAndCompresses : Obligations.RleEncImgChecksAndCompresses := by
  intro s
  refine congrArg Host.Outcome.next (runOp_eq_stateTested fun hs => ?_)
  split_ifs with hwidth hlen
  · exact runOp_error (f := .invalidParameter .width) hs (if_pos ((widthOk_false_iff s).2 hwidth))
  · exact runOp_error (f := .invalidParameter .rasterLength) hs
      ((if_neg (mt (widthOk_false_iff s).1 hwidth)).trans (if_pos hlen))
  · exact runRleEncImg_of_legal hs (by omega) (by omega) (by omega)

/-! ### The round trip through the commands -/

/-- Settles O18: R163's law of descriptors and of streams, then through the commands; two Raw descriptors of one solid
byte are what the compressor never writes. -/
theorem rleRoundTrip : Obligations.RleRoundTrip := by
  refine ⟨fun m row hm hm' => flatMap_expand_encDescs hm hm' row, fun c row hL => streamDescs_encrow hL row,
    fun s hs hc hw hw8 hlen => ?_, [.raw 0 0xFF, .raw 0 0xFF], fun m h => ?_⟩
  · exact ⟨_, _, congrArg Host.Outcome.next (runRleEncRow_of_legal hs hw hw8 hlen), rfl, rfl,
      fun u hu hL hfit hin => congrArg Host.Outcome.next (runRleDecRow_of_encrow hu hc hL hfit hin)⟩
  · rw [encrowByBitsIsEncrowByBytes] at h
    simp [bytewiseDescs, bytewiseFrom, expand, solid] at h

/-! ### The rows of a raster (41_rle_codec.md R166) -/

/-- The first `n` rows of a raster, one after another. -/
theorem flatMap_rasterRow (data : List Byte) (bpl n : Nat) :
    (List.range n).flatMap (rasterRow data bpl) = data.take (n * bpl) := by
  induction n with
  | zero => simp
  | succ n ih =>
    rw [List.range_succ, List.flatMap_append, ih, List.flatMap_singleton, rasterRow, slice, Nat.succ_mul,
      Nat.add_sub_cancel_left, List.take_add]

/-- A raster of whole rows is its rows, one after another. -/
theorem flatMap_rasterRow_of_dvd {data : List Byte} {bpl : Nat} (h : data.length % bpl = 0) :
    (List.range (data.length / bpl)).flatMap (rasterRow data bpl) = data := by
  rw [flatMap_rasterRow, Nat.div_mul_cancel (Nat.dvd_of_mod_eq_zero h), List.take_length]

theorem length_rasterRow {data : List Byte} {bpl k : Nat} (hk : k < data.length / bpl) :
    (rasterRow data bpl k).length = bpl := by
  have hle : (k + 1) * bpl ≤ data.length := (Nat.mul_le_mul_right bpl hk).trans (Nat.div_mul_le_self _ _)
  rw [Nat.succ_mul] at hle
  simp [rasterRow, slice, Nat.succ_mul]
  omega

@[simp] theorem length_encodedRows (c : BlockConfig) (data : List Byte) (bpl : Nat) :
    (encodedRows c data bpl).length = data.length / bpl := by
  simp [encodedRows]

theorem getD_encodedRows (c : BlockConfig) {data : List Byte} {bpl k : Nat} (hk : k < data.length / bpl) :
    (encodedRows c data bpl).getD k [] = encrow c (rasterRow data bpl k) := by
  simp [encodedRows, hk]

/-- Settles O21: each datagram is its row encoded, and an encoded row decodes to the row. -/
theorem rleEncImgIsRowByRow : Obligations.RleEncImgIsRowByRow := by
  intro s hs hc hw hw8 hlen
  refine ⟨_, congrArg Host.Outcome.next (runRleEncImg_of_legal hs hw hw8 hlen), rfl, ?_⟩
  simp only [produced_outq, length_encodedRows]
  refine ⟨trivial, flatMap_rasterRow_of_dvd hlen, fun k hk => ?_⟩
  have hrow := length_rasterRow hk
  rw [getD_encodedRows s.cfg hk]
  refine ⟨fun u hu hwidth hcfg hin => ?_, fun u hu hL hfit hin => ?_⟩
  · have henc := runRleEncRow_of_legal hu (hwidth ▸ hw) (hwidth ▸ hw8) (by rw [hin, hwidth, hrow])
    rw [hin, hcfg] at henc
    exact congrArg Host.Outcome.next henc
  · exact congrArg Host.Outcome.next (runRleDecRow_of_encrow hu hc hL (hrow.symm ▸ hfit) hin)

end Sys2Proof.Machine
end

section
/-! The fields of an image packet (30_encoding.md R100, R101) are read back from the packet. -/

namespace Sys2Proof

/-! ### PKT.IMGRAW -/

@[simp] theorem length_imgRawPacket (tag q n o : Nat) (p : List Byte) :
    (imgRawPacket tag q n o p).length = 14 + p.length := by
  simp [imgRawPacket]; omega

theorem take_imgRawPacket_tag (tag q n o : Nat) (p : List Byte) : (imgRawPacket tag q n o p).take 4 = be32 tag :=
  slice_imgRawPacket_tag tag q n o p

theorem rd16_imgRawPacket_index (tag : Nat) {q : Nat} (hq : q < 65536) (n o : Nat) (p : List Byte) :
    rd16 (imgRawPacket tag q n o p) 4 = q := by
  simp [imgRawPacket, rd16_be32_skip, rd16_be16_zero hq]

theorem rd16_imgRawPacket_inum (tag q : Nat) {n : Nat} (hn : n < 65536) (o : Nat) (p : List Byte) :
    rd16 (imgRawPacket tag q n o p) 6 = n := by
  simp [imgRawPacket, rd16_be32_skip, rd16_be16_skip, rd16_be16_zero hn]

theorem beVal_imgRawPacket_offset (tag q n : Nat) {o : Nat} (ho : o < 2 ^ 48) (p : List Byte) :
    beVal (slice (imgRawPacket tag q n o p) 8 14) = o := by
  rw [slice_imgRawPacket_offset, be48, beVal_beBytes, Nat.mod_eq_of_lt (by simpa using ho)]

/-! ### PKT.IMGRLE -/

theorem rd16_recordFrame_imgRlePayload_seqNo (id : Nat) {q : Nat} (hq : q < 65536) (n o : Nat) (e : List Byte) :
    rd16 (recordFrame id (imgRlePayload q n o e)) 4 = q := by
  simp [rd16_recordFrame_payload (i := 0), imgRlePayload, rd16_be16_zero hq]

theorem rd16_recordFrame_imgRlePayload_inum (id q : Nat) {n : Nat} (hn : n < 65536) (o : Nat) (e : List Byte) :
    rd16 (recordFrame id (imgRlePayload q n o e)) 6 = n := by
  simp [rd16_recordFrame_payload (i := 2), imgRlePayload, rd16_be16_skip, rd16_be16_zero hn]

end Sys2Proof
end

section
/-! The ImagePacketizer commands (42_image_packetizer.md R181 to R201): their tests in order and their packets, in every
state, and the laws of the packets of a run that succeeds. -/

namespace Sys2Proof.Machine

/-! ### An operation command from its tests and result -/

/-- The state that a command's tests and result lead to from IDLE. -/
def opOutcome (s : State) : Except BlockFault OpResult → State
  | .ok r => finish r s
  | .error f => faulted (faultCodeOf f) (faultParamOf f) s

@[simp] theorem opOutcome_ok (s : State) (r : OpResult) : opOutcome s (.ok r) = finish r s := rfl

@[simp] theorem opOutcome_error (s : State) (f : BlockFault) :
    opOutcome s (.error f) = faulted (faultCodeOf f) (faultParamOf f) s := rfl

theorem runOp_eq_opOutcome {op : State → Except BlockFault OpResult} {s : State} (hs : s.st = .idle) :
    runOp op s = opOutcome s (op s) := by
  cases hop : op s with
  | ok r => exact runOp_ok hs hop
  | error f => exact runOp_error hs hop

/-- A command that ends in READY has passed its tests. -/
theorem exists_ok_of_runOp_ready {op : State → Except BlockFault OpResult} {s : State} (hs : s.st = .idle)
    (h : (runOp op s).st = .ready) : ∃ r, op s = .ok r ∧ runOp op s = finish r s := by
  cases hop : op s with
  | ok r => exact ⟨r, rfl, runOp_ok hs hop⟩
  | error f => simp [runOp_error hs hop] at h

theorem getD_map_range {n i : Nat} (f : Nat → Datagram) (hi : i < n) : ((List.range n).map f).getD i [] = f i := by
  simp [hi]

/-! ### IMG.PKT.RAW -/

/-- Settles O22: the outcome of R182's chain of seven tests is the chain of their outcomes, the packets at its end. -/
theorem imgPktRawTestsAndPackets : Obligations.ImgPktRawTestsAndPackets := by
  intro s
  refine congrArg Host.Outcome.next (runOp_eq_stateTested fun hs => ?_)
  rw [runOp_eq_opOutcome hs]
  simp only [imgPktRawOp, apply_ite (opOutcome s), opOutcome_ok, opOutcome_error, widthOk_false_iff]
  rfl

/-- The seven tests of IMG.PKT.RAW pass (42_image_packetizer.md R182). -/
structure RawLegal (s : State) : Prop where
  inum : s.inum.toNat ≤ s.cfg.inumMax
  width : s.width.toNat ≠ 0 ∧ s.width.toNat % 8 = 0
  raster : s.inBuf.length % bytesPerLine s = 0
  lines : s.lpp.toNat ≠ 0
  multiple : s.inBuf.length % bytesPerPacket s = 0
  size : s.cfg.rawHdrBytes + bytesPerPacket s ≤ s.cfg.rawDgramMax
  count : rawPacketCount s ≤ 65536

theorem imgPktRawOp_ok {s : State} {r : OpResult} (h : imgPktRawOp s = .ok r) :
    RawLegal s ∧ r = { outq := (List.range (rawPacketCount s)).map (rawPacket s), reply := none } := by
  simp only [imgPktRawOp] at h
  split_ifs at h with hinum hwidth hraster hlines hmultiple hsize hcount
  cases h
  have hw : widthOk s = true := by simpa using hwidth
  exact ⟨⟨not_lt.1 hinum, (widthOk_iff s).1 hw, not_not.1 hraster, hlines, not_not.1 hmultiple, not_lt.1 hsize,
    not_lt.1 hcount⟩, rfl⟩

/-- The packets divide the raster in pieces of `bpp` bytes (42_image_packetizer.md R188). -/
theorem rawPacketCount_eq (s : State) : rawPacketCount s = s.inBuf.length / bytesPerPacket s := by
  rw [rawPacketCount, Nat.div_div_eq_div_mul, Nat.mul_comm]

/-- The payload of packet `i` is piece `i` of the raster. -/
theorem rawPacket_drop (s : State) (i : Nat) : (rawPacket s i).drop 14 = rasterRow s.inBuf (bytesPerPacket s) i :=
  imgRawPacket_drop _ _ _ _ _

theorem length_rawPacket {s : State} {i : Nat} (hi : i < rawPacketCount s) :
    (rawPacket s i).length = 14 + bytesPerPacket s := by
  rw [rawPacketCount_eq] at hi
  have hpiece : (packetBytes s.inBuf (bytesPerPacket s) i).length = bytesPerPacket s := length_rasterRow hi
  rw [rawPacket, length_imgRawPacket, hpiece]

/-- Settles O23: the fields of every packet fit their bytes, and the pieces of the raster are the raster. -/
theorem imgPktRawLaws : Obligations.ImgPktRawLaws := by
  intro s t hs hc hexec hready
  cases hexec
  obtain ⟨-, hhdr, -, -, -, hinumMax, -, -⟩ := s.cfg.valid_iff.1 hc
  obtain ⟨r, hop, hrun⟩ := exists_ok_of_runOp_ready hs hready
  obtain ⟨hlegal, rfl⟩ := imgPktRawOp_ok hop
  have hq : (runImgPktRaw s).outq = (List.range (rawPacketCount s)).map (rawPacket s) := congrArg State.outq hrun
  rw [hq, List.length_map, List.length_range]
  refine ⟨rfl, ?_, fun i hi => ?_⟩
  · simp only [List.flatMap_map, rawPacket_drop, rawPacketCount_eq]
    exact flatMap_rasterRow_of_dvd hlegal.multiple
  · have hinum := hlegal.inum
    have hcount := hlegal.count
    have hsize := hlegal.size
    have hoffset : i * s.lpp.toNat < 2 ^ 48 :=
      Nat.mul_lt_mul'' (c := 2 ^ 16) (d := 2 ^ 32) (by omega) s.lpp.isLt
    have hlen := length_rawPacket hi
    rw [getD_map_range _ hi]
    exact ⟨take_imgRawPacket_tag _ _ _ _ _, rd16_imgRawPacket_index _ (by omega) _ _ _,
      rd16_imgRawPacket_inum _ _ (by omega) _ _, beVal_imgRawPacket_offset _ _ _ hoffset _, hlen, by omega⟩

/-! ### IMG.PKT.RLE -/

theorem length_rlePayload (s : State) (k : Nat) :
    (rlePayload s k).length = 8 + (encrow s.cfg (rasterRow s.inBuf (bytesPerLine s) k)).length :=
  length_imgRlePayload _ _ _ _

/-- Packet `k`, field by field (30_encoding.md R101). -/
theorem rlePacket_eq (s : State) (k : Nat) :
    rlePacket s k =
      be16 (12 + (encrow s.cfg (rasterRow s.inBuf (bytesPerLine s) k)).length) ++
        be16 Config.imgRleRecid.toNat ++ be16 (k + 1) ++ be16 s.inum.toNat ++ be32 k ++
        encrow s.cfg (rasterRow s.inBuf (bytesPerLine s) k) := by
  have hsize : 4 + (rlePayload s k).length = 12 + (encrow s.cfg (rasterRow s.inBuf (bytesPerLine s) k)).length := by
    rw [length_rlePayload]; omega
  rw [rlePacket, recordFrame, hsize]
  simp only [rlePayload, imgRlePayload, List.append_assoc]

theorem somePayloadTooLarge_iff (s : State) :
    somePayloadTooLarge s = true ↔
      ∃ k < rowCount s,
        s.cfg.rlePayloadMax < 8 + (encrow s.cfg (rasterRow s.inBuf (bytesPerLine s) k)).length := by
  simp only [somePayloadTooLarge, List.any_eq_true, List.mem_range, decide_eq_true_eq, length_rlePayload, gt_iff_lt]

/-- Settles O24: as O22, with the last test of R193 over every row (R199). -/
theorem imgPktRleTestsAndPackets : Obligations.ImgPktRleTestsAndPackets := by
  intro s
  refine congrArg Host.Outcome.next (runOp_eq_stateTested fun hs => ?_)
  rw [runOp_eq_opOutcome hs]
  simp only [imgPktRleOp, apply_ite (opOutcome s), opOutcome_ok, opOutcome_error, widthOk_false_iff,
    somePayloadTooLarge_iff, funext (rlePacket_eq s)]
  rfl

/-- The five tests of IMG.PKT.RLE pass (42_image_packetizer.md R193). -/
structure RleLegal (s : State) : Prop where
  inum : s.inum.toNat ≤ s.cfg.inumMax
  width : s.width.toNat ≠ 0 ∧ s.width.toNat % 8 = 0
  raster : s.inBuf.length % bytesPerLine s = 0
  count : rowCount s ≤ 65535
  size : ∀ k < rowCount s, (rlePayload s k).length ≤ s.cfg.rlePayloadMax

theorem imgPktRleOp_ok {s : State} {r : OpResult} (h : imgPktRleOp s = .ok r) :
    RleLegal s ∧ r = { outq := (List.range (rowCount s)).map (rlePacket s), reply := none } := by
  simp only [imgPktRleOp] at h
  split_ifs at h with hinum hwidth hraster hcount hsize
  cases h
  have hw : widthOk s = true := by simpa using hwidth
  refine ⟨⟨not_lt.1 hinum, (widthOk_iff s).1 hw, not_not.1 hraster, not_lt.1 hcount, fun k hk => ?_⟩, rfl⟩
  rw [length_rlePayload]
  exact not_lt.1 fun hlarge => hsize ((somePayloadTooLarge_iff s).2 ⟨k, hk, hlarge⟩)

/-- The descriptors of packet `k` expand to row `k` (41_rle_codec.md R151, R163). -/
theorem expand_rlePacket {s : State} (hc : s.cfg.valid = true) (k : Nat) :
    (streamDescs s.cfg.layout ((rlePacket s k).drop 12)).flatMap expand = rasterRow s.inBuf (bytesPerLine s) k := by
  obtain ⟨hlayout, -, -, -, -, -, hm, hm'⟩ := s.cfg.valid_iff.1 hc
  rw [rlePacket, rlePayload, recordFrame_imgRlePayload_drop, streamDescs_encrow hlayout,
    flatMap_expand_encDescs hm hm']

/-- REC.DEC in IDLE accepts a packet of at most 65535 bytes (42_image_packetizer.md R200). -/
theorem runRecDec_of_rlePacket {s u : State} {k : Nat} (hlen : (rlePayload s k).length ≤ 65531) (hu : u.st = .idle)
    (hin : u.inBuf = rlePacket s k) :
    (runRecDec u).st = .ready ∧ (runRecDec u).rrecid.toNat = Config.imgRleRecid.toNat ∧
      (runRecDec u).rsize.toNat = (rlePacket s k).length ∧ (runRecDec u).outq = [(rlePacket s k).drop 4] := by
  have hid : (Config.imgRleRecid.setWidth 32).toNat = Config.imgRleRecid.toNat :=
    BitVec.toNat_setWidth_of_le (by decide)
  have hid_lt := Config.imgRleRecid.isLt
  have hframe : u.inBuf = recordFrame (Config.imgRleRecid.setWidth 32).toNat (rlePayload s k) := by rw [hid, hin]; rfl
  obtain ⟨hready, hrecid, hsize, hout⟩ := runRecDec_of_recordFrame hu (by omega) hlen hframe
  rw [rlePacket, length_recordFrame, recordFrame_drop]
  exact ⟨hready, hrecid ▸ hid, hsize, hout⟩

/-- Settles O25: the fields of every packet fit their bytes, its descriptors are those of its row, and the rows are the
raster. -/
theorem imgPktRleLaws : Obligations.ImgPktRleLaws := by
  intro s t hs hc hexec hready
  cases hexec
  obtain ⟨-, -, -, hmax, -, hinumMax, -, -⟩ := s.cfg.valid_iff.1 hc
  obtain ⟨r, hop, hrun⟩ := exists_ok_of_runOp_ready hs hready
  obtain ⟨hlegal, rfl⟩ := imgPktRleOp_ok hop
  have hq : (runImgPktRle s).outq = (List.range (rowCount s)).map (rlePacket s) := congrArg State.outq hrun
  rw [hq, List.length_map, List.length_range]
  refine ⟨rfl, ?_, fun k hk => ?_⟩
  · simp only [List.flatMap_map, expand_rlePacket hc]
    exact flatMap_rasterRow_of_dvd hlegal.raster
  · have hinum := hlegal.inum
    have hcount := hlegal.count
    have hsize := hlegal.size k hk
    have hlen : (rlePacket s k).length = 4 + (rlePayload s k).length := length_recordFrame _ _
    rw [getD_map_range _ hk]
    exact ⟨hlen ▸ rd16_recordFrame_size _ (by omega), rd16_recordFrame_imgRlePayload_seqNo _ (by omega) _ _ _,
      rd16_recordFrame_imgRlePayload_inum _ _ (by omega) _ _, slice_recordFrame_imgRlePayload _ _ _ _ _, by omega,
      expand_rlePacket hc k, fun u hu hin => ⟨_, rfl, runRecDec_of_rlePacket (by omega) hu hin⟩⟩

end Sys2Proof.Machine
end

section
/-! The SequencePacketizer command (43_sequence_packetizer.md R211 to R219): its tests in order and its chunks, in every
state, the legal chunk sizes, and the laws of the chunks of a run that succeeds. -/

namespace Sys2Proof

/-! ### The fields of CHUNK.SEQ (30_encoding.md R102) are read back from the chunk -/

@[simp] theorem length_chunkDatagram (tag j m : Nat) (d : List Byte) :
    (chunkDatagram tag j m d).length = 10 + d.length := by
  simp [chunkDatagram]; omega

theorem rd16_chunkDatagram_size (tag j m : Nat) {d : List Byte} (h : 10 + d.length < 65536) :
    rd16 (chunkDatagram tag j m d) 0 = 10 + d.length := by
  simp [chunkDatagram, rd16_be16_zero h]

theorem rd16_chunkDatagram_tag {tag : Nat} (h : tag < 65536) (j m : Nat) (d : List Byte) :
    rd16 (chunkDatagram tag j m d) 2 = tag := by
  simp [chunkDatagram, rd16_be16_skip, rd16_be16_zero h]

theorem rd16_chunkDatagram_index (tag : Nat) {j : Nat} (h : j < 65536) (m : Nat) (d : List Byte) :
    rd16 (chunkDatagram tag j m d) 4 = j := by
  simp [chunkDatagram, rd16_be16_skip, rd16_be16_zero h]

theorem rd16_chunkDatagram_total (tag j : Nat) {m : Nat} (h : m < 65536) (d : List Byte) :
    rd16 (chunkDatagram tag j m d) 6 = m := by
  simp [chunkDatagram, rd16_be16_skip, rd16_be16_zero h]

theorem rd16_chunkDatagram_dataLength (tag j m : Nat) {d : List Byte} (h : d.length < 65536) :
    rd16 (chunkDatagram tag j m d) 8 = d.length := by
  simp [chunkDatagram, rd16_be16_skip, rd16_be16_zero h]

end Sys2Proof

namespace Sys2Proof.Machine

/-! ### The tests of SEQ.PKT -/

/-- Settles O26: the outcome of R211's two tests in order is the chain of their outcomes, the chunks at its end. -/
theorem seqPktTestsAndChunks : Obligations.SeqPktTestsAndChunks := by
  intro s
  refine congrArg Host.Outcome.next (runOp_eq_stateTested fun hs => ?_)
  rw [runOp_eq_opOutcome hs]
  simp only [seqPktOp, apply_ite (opOutcome s), opOutcome_ok, opOutcome_error, chunkSizeOk_false_iff]
  rfl

/-- From IDLE, code 3 is what the chunk size test raises and nothing else does (43_sequence_packetizer.md R211). -/
theorem runSeqPkt_invalidChunkSize_iff {s : State} (hs : s.st = .idle) :
    ((runSeqPkt s).st = .fault ∧ (runSeqPkt s).faultCode = 3) ↔ (!chunkSizeOk s.cfg s.chunk.toNat) = true := by
  rw [runSeqPkt, runOp_eq_opOutcome hs, seqPktOp]
  split_ifs with hsize hcount
  · simp [hsize, faultCodeOf]
  · simp [hsize, faultCodeOf]
  · simp [hsize]

/-- What the chunk size test refuses under R5's values: all but 8, 16, ..., 1488 (43_sequence_packetizer.md R212). -/
theorem chunkSize_illegal_iff (cs : Nat) :
    (cs = 0 ∨ cs % 8 ≠ 0 ∨ 1500 < cs + 10) ↔ ¬∃ m, 1 ≤ m ∧ m ≤ 186 ∧ cs = 8 * m := by
  constructor
  · rintro hbad ⟨m, hlow, hhigh, rfl⟩
    omega
  · intro hnone
    by_contra hlegal
    exact hnone ⟨cs / 8, by omega, by omega, by omega⟩

/-- Settles O27: the chunk size test under R5's values. -/
theorem legalChunkSizes : Obligations.LegalChunkSizes := by
  intro s t hs hmax hhdr hexec
  cases hexec
  rw [runSeqPkt_invalidChunkSize_iff hs, chunkSizeOk_false_iff, hmax, hhdr, chunkSize_illegal_iff]

/-- The two tests of SEQ.PKT pass (43_sequence_packetizer.md R211). -/
structure SeqLegal (s : State) : Prop where
  pos : 0 < s.chunk.toNat
  multiple : s.chunk.toNat % 8 = 0
  size : s.chunk.toNat + s.cfg.seqHdrBytes ≤ s.cfg.seqDgramMax
  count : chunkCount s.inBuf.length s.chunk.toNat ≤ 65535

theorem seqPktOp_ok {s : State} {r : OpResult} (h : seqPktOp s = .ok r) :
    SeqLegal s ∧
      r = { outq := (List.range (chunkCount s.inBuf.length s.chunk.toNat)).map (chunkOf s.inBuf s.chunk.toNat)
            reply := none } := by
  simp only [seqPktOp] at h
  split_ifs at h with hsize hcount
  cases h
  rw [chunkSizeOk_false_iff] at hsize
  exact ⟨⟨by omega, by omega, by omega, not_lt.1 hcount⟩, rfl⟩

/-! ### The slices of a program -/

/-- There are as many chunks as pieces begin inside the program (43_sequence_packetizer.md R214). -/
theorem lt_chunkCount_iff {cs : Nat} (hcs : 0 < cs) (len j : Nat) : j < chunkCount len cs ↔ j * cs < len := by
  rw [chunkCount, ← Nat.succ_le_iff, Nat.le_div_iff_mul_le hcs, Nat.succ_mul]
  omega

/-- The last slice ends with the program; the others are cut as the rows of a raster are (20_memory.md R75). -/
theorem programSlice_eq_rasterRow (prog : List Byte) (cs j : Nat) : programSlice prog cs j = rasterRow prog cs j := by
  rw [programSlice, rasterRow, slice, slice, List.take_eq_take_iff, List.length_drop]
  omega

theorem flatMap_programSlice (prog : List Byte) {cs : Nat} (hcs : 0 < cs) :
    (List.range (chunkCount prog.length cs)).flatMap (programSlice prog cs) = prog := by
  have hcover : prog.length ≤ chunkCount prog.length cs * cs :=
    not_lt.1 (mt (lt_chunkCount_iff hcs _ _).2 (lt_irrefl _))
  rw [funext (programSlice_eq_rasterRow prog cs), flatMap_rasterRow, List.take_of_length_le hcover]

/-- A slice holds 1 byte to a whole chunk size. -/
theorem length_programSlice_bounds {prog : List Byte} {cs j : Nat} (hcs : 0 < cs)
    (hj : j < chunkCount prog.length cs) :
    1 ≤ (programSlice prog cs j).length ∧ (programSlice prog cs j).length ≤ cs := by
  rw [lt_chunkCount_iff hcs] at hj
  simp only [programSlice, slice, List.length_take, List.length_drop, Nat.succ_mul]
  omega

/-! ### The chunks -/

theorem length_chunkOf (prog : List Byte) (cs j : Nat) :
    (chunkOf prog cs j).length = 10 + (programSlice prog cs j).length :=
  length_chunkDatagram _ _ _ _

theorem chunkOf_drop (prog : List Byte) (cs j : Nat) : (chunkOf prog cs j).drop 10 = programSlice prog cs j :=
  chunkDatagram_drop _ _ _ _

/-- REC.DEC in IDLE accepts a chunk of at most 65535 bytes (43_sequence_packetizer.md R216). -/
theorem runRecDec_of_chunkOf {u : State} {prog : List Byte} {cs j : Nat} (hlen : (chunkOf prog cs j).length ≤ 65535)
    (hu : u.st = .idle) (hin : u.inBuf = chunkOf prog cs j) :
    (runRecDec u).st = .ready ∧ (runRecDec u).rrecid.toNat = Config.seqTag.toNat ∧
      (runRecDec u).rsize.toNat = (chunkOf prog cs j).length := by
  have hid : (Config.seqTag.setWidth 32).toNat = Config.seqTag.toNat := BitVec.toNat_setWidth_of_le (by decide)
  have hid_lt := Config.seqTag.isLt
  rw [chunkOf, chunkDatagram_eq] at hin hlen ⊢
  rw [length_recordFrame] at hlen ⊢
  obtain ⟨hready, hrecid, hsize, -⟩ :=
    runRecDec_of_recordFrame (id := Config.seqTag.setWidth 32) hu (by omega) (by omega) (hid.symm ▸ hin)
  exact ⟨hready, hrecid ▸ hid, hsize⟩

/-- Settles O28: the fields of every chunk fit their bytes, and the slices of the program are the program. -/
theorem seqPktLaws : Obligations.SeqPktLaws := by
  intro s t hs hc hexec hready
  cases hexec
  obtain ⟨-, -, hhdr, -, hmax, -, -, -⟩ := s.cfg.valid_iff.1 hc
  obtain ⟨r, hop, hrun⟩ := exists_ok_of_runOp_ready hs hready
  obtain ⟨hlegal, rfl⟩ := seqPktOp_ok hop
  have hq : (runSeqPkt s).outq =
      (List.range (chunkCount s.inBuf.length s.chunk.toNat)).map (chunkOf s.inBuf s.chunk.toNat) :=
    congrArg State.outq hrun
  rw [hq, List.length_map, List.length_range]
  refine ⟨?_, fun j hj => ?_⟩
  · simp only [List.flatMap_map, chunkOf_drop]
    exact flatMap_programSlice _ hlegal.pos
  · have hmultiple := hlegal.multiple
    have hsize := hlegal.size
    have hcount := hlegal.count
    obtain ⟨hlow, hhigh⟩ := length_programSlice_bounds hlegal.pos hj
    have hlen := length_chunkOf s.inBuf s.chunk.toNat j
    rw [getD_map_range _ hj]
    exact ⟨hlen ▸ rd16_chunkDatagram_size _ _ _ (by omega), rd16_chunkDatagram_tag Config.seqTag.isLt _ _ _,
      rd16_chunkDatagram_index _ (by omega) _ _, rd16_chunkDatagram_total _ _ (by omega) _,
      (rd16_chunkDatagram_dataLength _ _ _ (by omega)).trans (by omega), by omega, by omega, fun _ => by omega,
      fun u hu hin => ⟨_, rfl, runRecDec_of_chunkOf (by omega) hu hin⟩⟩

end Sys2Proof.Machine
end

section
/-! The control commands and the host's other actions in every state (44_control_ops.md R230 to R239): what NEXT, LOAD,
SEEK and SET make of the block, and the loop that pulls the queue (R242). -/

namespace Sys2Proof.Machine

/-! ### By the state found -/

theorem raise_protocolViolation {s : State} (hs : s.st ≠ .fault) : raise .protocolViolation s = faulted 6 0 s :=
  raise_of_not_fault _ s hs

theorem pullNext_of_fault {s : State} (hs : s.st = .fault) : pullNext s = s := by
  simp only [pullNext, hs]

theorem pullNext_of_idle {s : State} (hs : s.st = .idle) : pullNext s = faulted 6 0 s := by
  simp only [pullNext, hs]
  exact raise_protocolViolation (by simp [hs])

theorem pullNext_at_end {s : State} (hs : s.st = .ready) (h : s.outq.length ≤ s.outidx) :
    pullNext s = faulted 6 0 s := by
  simp only [pullNext, hs]
  rw [if_neg (by simpa using h)]
  exact raise_protocolViolation (by simp [hs])

theorem pullNext_at_datagram {s : State} (hs : s.st = .ready) (h : s.outidx < s.outq.length) :
    pullNext s = { s with handed := s.handed ++ [s.outq[s.outidx]], outidx := s.outidx + 1 } := by
  simp only [pullNext, hs, if_pos h, List.getD_eq_getElem _ _ h]

theorem doLoad_of_fault (b : List Byte) {s : State} (hs : s.st = .fault) : doLoad b s = s := by
  simp only [doLoad, hs]

theorem doLoad_of_ready (b : List Byte) {s : State} (hs : s.st = .ready) : doLoad b s = faulted 6 0 s := by
  simp only [doLoad, hs]
  exact raise_protocolViolation (by simp [hs])

theorem doSeek_of_le {v : Word} {s : State} (hs : s.st = .ready) (h : v.toNat ≤ s.outq.length) :
    doSeek v s = { s with outidx := v.toNat } := by
  simp only [doSeek, hs]
  exact if_neg (Nat.not_lt.2 h)

theorem doSet_of_fault (write : State → State) {s : State} (hs : s.st = .fault) : doSet write s = s := by
  simp only [doSet, hs]

theorem doSet_of_ready (write : State → State) {s : State} (hs : s.st = .ready) :
    doSet write s = faulted 6 0 s := by
  simp only [doSet, hs]
  exact raise_protocolViolation (by simp [hs])

theorem doSet_of_idle (write : State → State) {s : State} (hs : s.st = .idle) : doSet write s = write s := by
  simp only [doSet, hs]

/-! ### One step for an action that is no command -/

theorem step_of_read {s : State} {offset : Nat} {rest : List HostAction} (hp : s.pending = .read offset :: rest) :
    step s = .next (doRead offset { s with pending := rest }) := by
  simp only [step, takeAction, hp, runAction, unitOf, runPlain]

theorem step_of_write {s : State} {offset : Nat} {v : Word} {rest : List HostAction}
    (hp : s.pending = .write offset v :: rest) (hcmd : regAt offset ≠ some .cmd) :
    step s = .next (writeAt offset v { s with pending := rest }) := by
  simp only [step, takeAction, hp, runAction, unitOf, if_neg hcmd, runPlain]

theorem step_of_seek {s : State} {n : Word} {rest : List HostAction} (hp : s.pending = .write 0x10 n :: rest) :
    step s = .next (doSeek n { s with pending := rest }) :=
  step_of_write hp (by decide)

theorem step_of_next {s : State} {rest : List HostAction} (hp : s.pending = .write 0x00 0x0A :: rest) :
    step s = .next (pullNext { s with pending := rest }) :=
  step_of_decodes (u := .cmd 0x0A) hp rfl rfl

/-! ### The pull loop -/

theorem run_succ {s t : State} (h : step s = .next t) (k : Nat) : core.run (k + 1) s = core.run k t := by
  simp only [Host.Core.run, core, h]

theorem step_of_next_at_datagram {s : State} {rest : List HostAction} (hs : s.st = .ready)
    (h : s.outidx < s.outq.length) (hp : s.pending = .write 0x00 0x0A :: rest) :
    step s =
      .next { s with pending := rest, handed := s.handed ++ [s.outq[s.outidx]], outidx := s.outidx + 1 } :=
  (step_of_next hp).trans (congrArg Host.Outcome.next (pullNext_at_datagram (s := { s with pending := rest }) hs h))

/-- NEXT as often as datagrams are left, by induction on how many: each takes the head of what is left. -/
theorem run_next_of_left {k : Nat} : ∀ {s : State} {rest : List HostAction}, s.st = .ready →
    s.outidx + k = s.outq.length → s.pending = List.replicate k (.write 0x00 0x0A) ++ rest →
      core.run k s =
        .next { s with
          pending := rest, outidx := s.outq.length, handed := s.handed ++ s.outq.drop s.outidx } := by
  induction k with
  | zero =>
    intro s rest _ (hidx : s.outidx = s.outq.length) (hp : s.pending = rest)
    have hnone : s.handed ++ s.outq.drop s.outidx = s.handed := by simp [hidx]
    rw [hnone, ← hidx, ← hp]
    rfl
  | succ k ih =>
    intro s rest hs hk hp
    have hlt : s.outidx < s.outq.length := by omega
    have hstep := step_of_next_at_datagram hs hlt hp
    have hhanded : s.handed ++ [s.outq[s.outidx]] ++ s.outq.drop (s.outidx + 1) =
        s.handed ++ s.outq.drop s.outidx := by
      rw [List.drop_eq_getElem_cons hlt, List.append_assoc, List.singleton_append]
    calc core.run (k + 1) s = _ := run_succ hstep k
      _ = _ := ih hs (by simp only; omega) rfl
      _ = _ := congrArg (fun l => Host.Outcome.next { s with pending := rest, outidx := s.outq.length, handed := l })
        hhanded

/-- Settles O37: the loop is as long as what is left. -/
theorem pullLoopHandsOverTheRest : Obligations.PullLoopHandsOverTheRest := fun _ _ hs hidx hp =>
  run_next_of_left hs (by omega) hp

/-- Settles O38: after the SEEK, `n` is where the loop begins. -/
theorem seekRestartsTheStream : Obligations.SeekRestartsTheStream := by
  intro s n rest hs hn hp
  have hseek : step s = .next { s with
      pending := List.replicate (s.outq.length - n.toNat) (.write 0x00 0x0A) ++ rest, outidx := n.toNat } :=
    (step_of_seek hp).trans (congrArg Host.Outcome.next (doSeek_of_le hs hn))
  exact (run_succ hseek _).trans (run_next_of_left hs (Nat.add_sub_cancel' hn) rfl)

/-! ### The commands -/

/-- Settles O29: NOP's next state is the state itself, CLR's is `clear`'s. -/
theorem nopAndClrInEveryState : Obligations.NopAndClrInEveryState := fun _ => ⟨rfl, rfl⟩

/-- Settles O30: NEXT is `pullNext`, in FAULT, in IDLE, past the end and at a datagram. -/
theorem nextHandsOverOneDatagram : Obligations.NextHandsOverOneDatagram := fun _ =>
  ⟨fun hs => congrArg Host.Outcome.next (pullNext_of_fault hs),
    fun hs => congrArg Host.Outcome.next (pullNext_of_idle hs),
    fun hs h => congrArg Host.Outcome.next (pullNext_at_end hs h),
    fun hs h => congrArg Host.Outcome.next (pullNext_at_datagram hs h)⟩

/-- Settles O31: whatever the command's own tests are, they are not made outside IDLE. -/
theorem operationsOutsideIdle : Obligations.OperationsOutsideIdle := by
  intro i s hi
  obtain ⟨op, hop⟩ := exists_runsOp hi
  rw [hop.exec s]
  exact ⟨fun hs => congrArg Host.Outcome.next (runOp_ready hs),
    fun hs => congrArg Host.Outcome.next (runOp_fault hs)⟩

/-! ### SEEK and LOAD -/

/-- Settles O32: the cases of SEEK are the branches of the statement. -/
theorem seekMovesTheCursor : Obligations.SeekMovesTheCursor := by
  intro s n rest hp
  rw [step_of_seek hp]
  have hcases := doSeek_cases n { s with pending := rest }
  simp only at hcases
  rcases hcases with ⟨hs, hle, e⟩ | ⟨hs, hlt, e⟩ | ⟨hs, e⟩ | ⟨hs, e⟩ <;> rw [e, hs]
  · exact congrArg Host.Outcome.next (if_pos hle).symm
  · exact congrArg Host.Outcome.next (if_neg (Nat.not_le.2 hlt)).symm

/-- Settles O33: LOAD in FAULT, in READY, and in IDLE over and within the capacity. -/
theorem loadReplacesTheInput : Obligations.LoadReplacesTheInput := by
  intro s b rest hp
  rw [step_of_load hp]
  exact ⟨fun hs => congrArg Host.Outcome.next (doLoad_of_fault b hs),
    fun hs => congrArg Host.Outcome.next (doLoad_of_ready b hs),
    fun hs h => congrArg Host.Outcome.next (doLoad_overflow hs h),
    fun hs h => congrArg Host.Outcome.next (doLoad_fits hs h)⟩

end Sys2Proof.Machine
end

section
/-! The register map (20_memory.md R68): where each register stands, what a write to it does (44_control_ops.md R238)
and what a read of it shows (R239). -/

namespace Sys2Proof.Machine

/-! ### The map -/

/-- The offset at which the map has a register. -/
def Reg.offset : Reg → Nat
  | .cmd => 0x00
  | .status => 0x04
  | .fault => 0x08
  | .outcnt => 0x0C
  | .outidx => 0x10
  | .outlen => 0x14
  | .recid => 0x20
  | .inum => 0x24
  | .width => 0x28
  | .lpp => 0x2C
  | .chunk => 0x30
  | .inlen => 0x34
  | .rsize => 0x40
  | .rrecid => 0x44
  | .rclass => 0x48
  | .rcode => 0x4C

theorem regAt_offset (r : Reg) : regAt r.offset = some r := by
  cases r <;> rfl

theorem eq_offset_of_regAt {offset : Nat} {r : Reg} (h : regAt offset = some r) : offset = r.offset := by
  unfold regAt at h
  split at h <;> cases h <;> rfl

theorem ne_offset_of_regAt_none {offset : Nat} (h : regAt offset = none) (r : Reg) : offset ≠ r.offset := by
  rintro rfl
  cases (regAt_offset r).symm.trans h

/-! ### SET and the ignored writes -/

/-- A parameter register given its value. -/
def assignParam (v : Word) : Reg → State → State
  | .recid, s => { s with recid := fitParam s.cfg v }
  | .inum, s => { s with inum := fitParam s.cfg v }
  | .width, s => { s with width := fitParam s.cfg v }
  | .lpp, s => { s with lpp := fitParam s.cfg v }
  | .chunk, s => { s with chunk := fitParam s.cfg v }
  | .cmd, s | .status, s | .fault, s | .outcnt, s | .outidx, s | .outlen, s | .inlen, s | .rsize, s
  | .rrecid, s | .rclass, s | .rcode, s => s

/-- The five parameter registers (10_state.md R22). -/
def isParam : Reg → Bool
  | .recid | .inum | .width | .lpp | .chunk => true
  | .cmd | .status | .fault | .outcnt | .outidx | .outlen | .inlen | .rsize | .rrecid | .rclass | .rcode => false

theorem step_of_set {s : State} {r : Reg} {v : Word} {rest : List HostAction} (hr : isParam r = true)
    (hp : s.pending = .write r.offset v :: rest) :
    step s = .next (doSet (assignParam v r) { s with pending := rest }) := by
  cases r with
  | recid | inum | width | lpp | chunk => exact step_of_write hp (by decide)
  | cmd | status | fault | outcnt | outidx | outlen | inlen | rsize | rrecid | rclass | rcode => cases hr

theorem exists_param_of_mem {offset : Nat} (h : offset ∈ [0x20, 0x24, 0x28, 0x2C, 0x30]) :
    ∃ r, isParam r = true ∧ offset = r.offset := by
  simp only [List.mem_cons, List.not_mem_nil, or_false] at h
  rcases h with h | h | h | h | h
  · exact ⟨.recid, rfl, h⟩
  · exact ⟨.inum, rfl, h⟩
  · exact ⟨.width, rfl, h⟩
  · exact ⟨.lpp, rfl, h⟩
  · exact ⟨.chunk, rfl, h⟩

/-- A write to an offset that is neither `CMD`'s, `OUTIDX`'s nor a parameter's is ignored. -/
theorem writeAt_of_not_writable {offset : Nat} (h : offset ∉ [0x00, 0x10, 0x20, 0x24, 0x28, 0x2C, 0x30]) (v : Word)
    (s : State) : writeAt offset v s = s := by
  unfold writeAt
  split
  next r hr =>
    rw [eq_offset_of_regAt hr] at h
    cases r with
    | cmd | outidx | recid | inum | width | lpp | chunk => exact absurd (by decide) h
    | status | fault | outcnt | outlen | inlen | rsize | rrecid | rclass | rcode => rfl
  next => rfl

theorem step_of_ignored_write {s : State} {offset : Nat} {v : Word} {rest : List HostAction}
    (hp : s.pending = .write offset v :: rest) (h : offset ∉ [0x00, 0x10, 0x20, 0x24, 0x28, 0x2C, 0x30]) :
    step s = .next { s with pending := rest } := by
  have hcmd : regAt offset ≠ some .cmd := fun hr => h (by simp [eq_offset_of_regAt hr, Reg.offset])
  rw [step_of_write hp hcmd, writeAt_of_not_writable h]

/-- Settles O34: a parameter's offset is a SET, whose value is `fitParam`'s; every other is ignored. -/
theorem setWritesOneParameter : Obligations.SetWritesOneParameter := by
  intro s offset v rest hp
  refine ⟨fun hmem hs => ?_, fun hmem hs => ?_, fun hs => ⟨fitParam s.cfg v, fun hv => if_pos hv, ?_⟩,
    fun _ h => step_of_ignored_write hp h⟩
  · obtain ⟨r, hr, rfl⟩ := exists_param_of_mem hmem
    rw [step_of_set hr hp, doSet_of_fault _ (by exact hs)]
  · obtain ⟨r, hr, rfl⟩ := exists_param_of_mem hmem
    rw [step_of_set hr hp, doSet_of_ready _ (by exact hs)]
  · have hset : ∀ r, isParam r = true → offset = r.offset →
        step s = .next (assignParam v r { s with pending := rest }) := by
      rintro r hr rfl
      rw [step_of_set hr hp, doSet_of_idle _ (by exact hs)]
    exact ⟨hset .recid rfl, hset .inum rfl, hset .width rfl, hset .lpp rfl, hset .chunk rfl⟩

/-! ### READ -/

theorem more_iff (s : State) : more s = true ↔ s.st = .ready ∧ s.outidx < s.outq.length := by
  simp [more]

/-- `STATUS` as a number: `STATE` and, in bit 2, `MORE` (10_state.md R30). -/
theorem statusWord_eq (s : State) :
    statusWord s = BitVec.ofNat 32 ((match s.st with | .idle => 0 | .ready => 1 | .fault => 2) +
      (if s.st = .ready ∧ s.outidx < s.outq.length then 4 else 0)) := by
  simp only [← more_iff, statusWord]
  cases s.st <;> cases more s <;> rfl

/-- `FAULT` as a number: `CODE` and, from bit 8 on, `PARAM` (10_state.md R31). -/
theorem faultWord_eq (s : State) :
    faultWord s = BitVec.ofNat 32 (s.faultCode.toNat + 256 * s.faultParam.toNat) := by
  have hcode := s.faultCode.isLt
  have hparam := s.faultParam.isLt
  refine BitVec.eq_of_toNat_eq ?_
  simp only [faultWord, BitVec.toNat_append, BitVec.ofNat_eq_ofNat, BitVec.toNat_ofNat, Nat.zero_mod,
    Nat.zero_shiftLeft, Nat.zero_or]
  rw [← Nat.shiftLeft_add_eq_or_of_lt hcode, Nat.shiftLeft_eq]
  omega

theorem countWord_of_lt {n : Nat} (h : n < 2 ^ 32) : countWord n = BitVec.ofNat 32 n := if_pos h

theorem outlen_eq (s : State) :
    outlen s = if s.st = .ready ∧ s.outidx < s.outq.length then (s.outq.getD s.outidx []).length else 0 := by
  simp only [outlen, more_iff]

theorem outlen_lt {s : State} (h : (s.outq.getD s.outidx []).length < 2 ^ 32) : outlen s < 2 ^ 32 := by
  unfold outlen
  split
  · exact h
  · decide

/-- Settles O35: register by register, and 0 where the map has none. -/
theorem readShowsTheRegister : Obligations.ReadShowsTheRegister := by
  intro s offset rest hp _ hcnt hidx hin hlen
  rw [step_of_read hp, doRead]
  refine congrArg (fun w => Host.Outcome.next { s with pending := rest, reads := s.reads ++ [w] }) ?_
  unfold valueAt
  split
  next r hr =>
    rw [eq_offset_of_regAt hr]
    cases r with
    | status => exact statusWord_eq s
    | fault => exact faultWord_eq s
    | outcnt => exact countWord_of_lt hcnt
    | outidx => exact countWord_of_lt hidx
    | outlen => exact (countWord_of_lt (outlen_lt hlen)).trans (congrArg (BitVec.ofNat 32) (outlen_eq s))
    | inlen => exact countWord_of_lt hin
    | cmd | recid | inum | width | lpp | chunk | rsize | rrecid | rclass | rcode => rfl
  next hr =>
    have hne : ∀ r ∈ [Reg.status, .fault, .outcnt, .outidx, .outlen, .recid, .inum, .width, .lpp, .chunk, .inlen,
        .rsize, .rrecid, .rclass, .rcode], offset ≠ r.offset := fun r _ => ne_offset_of_regAt_none hr r
    simp only [List.forall_mem_cons, Reg.offset] at hne
    simp only [hne, if_false]

end Sys2Proof.Machine
end

section
/-! The ends of a session by events of the transport and the host, and what leaves everything as it was
(46_host_transfer_session.md R250, R252, R261, R263). -/

namespace Sys2Proof.Machine

/-! ### One step for a session event -/

theorem step_of_sessionEvent {s : State} {ss : Session} {e : SessionEvent} {rest : List HostAction}
    (hses : s.session = some ss) (hpend : s.pending = .session e :: rest) :
    step s = .next (sessionEvent e ss { s with pending := rest }) := by
  rw [step_of_session hpend, sessionTurn_of_some (s := { s with pending := rest }) e hses]

theorem step_of_create {s : State} {plan : SessionPlan} {rest : List HostAction} (hses : s.session = none)
    (hpend : s.pending = .session (.create plan) :: rest) :
    step s = .next (withSession (newSession s.cfg plan) { s with pending := rest }) := by
  rw [step_of_session hpend]
  simp only [sessionTurn, hses]

/-! ### Events that do nothing -/

/-- Without a session only construction does anything. -/
theorem sessionTurn_of_none {s : State} {e : SessionEvent} (hses : s.session = none)
    (hcreate : ∀ plan, e ≠ .create plan) : sessionTurn e s = s := by
  cases e with
  | create plan => exact absurd rfl (hcreate plan)
  | start | reply | advance | timeout | socketError | abort => simp only [sessionTurn, hses]

/-- A terminal phase is none of those in which a start, a reply or a turn of a burst has a meaning. -/
theorem sessionEvent_of_terminal {s : State} {ss : Session} {e : SessionEvent}
    (hp : ss.phase = .complete ∨ ss.phase = .failed) (hcreate : ∀ plan, e ≠ .create plan) :
    sessionEvent e ss s = s := by
  cases e with
  | create plan => exact absurd rfl (hcreate plan)
  | reply b =>
    simp only [sessionEvent, sessionReply]
    rcases hp with h | h <;> simp only [h, ite_self]
  | start | advance | timeout | socketError | abort =>
    rcases hp with h | h <;> simp [sessionEvent, sessionAdvance, terminal, h]

/-- Settles O52: there is no session, or it is in a terminal phase. -/
theorem terminalPhasesStay : Obligations.TerminalPhasesStay := by
  rintro s e rest (hnone | ⟨ss, hses, hp⟩) hcreate hpend
  · exact (step_of_session hpend).trans
      (congrArg Host.Outcome.next (sessionTurn_of_none (s := { s with pending := rest }) hnone hcreate))
  · exact (step_of_sessionEvent hses hpend).trans (congrArg Host.Outcome.next (sessionEvent_of_terminal hp hcreate))

/-! ### Events that end the session -/

theorem sessionEvent_socketError {s : State} {ss : Session} (h : terminal ss.phase = false) :
    sessionEvent .socketError ss s = failSession .transportError ss s := by
  simp [sessionEvent, h]

theorem sessionEvent_timeout {s : State} {ss : Session} (h : terminal ss.phase = false) (hfl : ss.inFlight = true) :
    sessionEvent .timeout ss s = failSession .timeout ss s := by
  simp [sessionEvent, h, hfl]

theorem sessionEvent_abort {s : State} {ss : Session} (h : terminal ss.phase = false) :
    sessionEvent .abort ss s = abortSession ss s := by
  simp [sessionEvent, h]

/-- Settles O53: both events come to `failSession`. -/
theorem transportFailuresEndTheSession : Obligations.TransportFailuresEndTheSession := by
  intro s ss rest hses hcomplete hfailed
  have hrunning := (terminal_eq_false_iff _).2 ⟨hcomplete, hfailed⟩
  exact ⟨fun hpend => (step_of_sessionEvent hses hpend).trans
      (congrArg Host.Outcome.next (sessionEvent_socketError hrunning)),
    fun hfl hpend => (step_of_sessionEvent hses hpend).trans
      (congrArg Host.Outcome.next (sessionEvent_timeout hrunning hfl))⟩

/-- Settles O60: the abort comes to `abortSession`, which leaves no session where the next is constructed. -/
theorem abortLeavesRoomForTheNextSession : Obligations.AbortLeavesRoomForTheNextSession := by
  intro s ss plan rest hses hcomplete hfailed hpend
  have hrunning := (terminal_eq_false_iff _).2 ⟨hcomplete, hfailed⟩
  exact ⟨_, (step_of_sessionEvent hses hpend).trans (congrArg Host.Outcome.next (sessionEvent_abort hrunning)), rfl,
    step_of_create (s := abortSession ss _) (plan := plan) (rest := rest) rfl rfl⟩

end Sys2Proof.Machine
end

section
/-! The packetizer command of a session: the check at the start (46_host_transfer_session.md R253, R260) and the second
issue, with which the burst begins (R255). -/

namespace Sys2Proof.Machine

/-! ### The packetizer command -/

theorem exec_packetizerOf (k : Packetizer) (s : State) : exec (packetizerOf k) s = .next (runPacketizer k s) := by
  cases k with
  | imgRaw | imgRle | seq => rfl

/-- A command that writes no result register and ends in READY wrote its queue and nothing else. -/
theorem runOp_eq_produced_of_ready {op : State → Except BlockFault OpResult} {s : State} (hop : PlainOp op)
    (hs : s.st = .idle) (h : (runOp op s).st = .ready) : runOp op s = produced (runOp op s).outq s := by
  cases hres : op s with
  | error f => simp [runOp_error hs hres] at h
  | ok r =>
    obtain ⟨q, reply⟩ := r
    obtain ⟨-, rfl⟩ := hop s _ hres
    rw [runOp_ok hs hres, finish_without_reply, produced_outq]

theorem runPacketizer_eq_produced_of_ready {k : Packetizer} {s : State} (hs : s.st = .idle)
    (h : (runPacketizer k s).st = .ready) : runPacketizer k s = produced (runPacketizer k s).outq s := by
  cases k with
  | imgRaw => exact runOp_eq_produced_of_ready imgPktRawOp_plain hs h
  | imgRle => exact runOp_eq_produced_of_ready imgPktRleOp_plain hs h
  | seq => exact runOp_eq_produced_of_ready seqPktOp_plain hs h

/-- The command is a function of its operands (20_memory.md R67), so that its second issue gives what the first gave. -/
theorem runPacketizer_congr {k : Packetizer} {s u : State} (hs : s.st = .idle) (hu : u.st = .idle)
    (h : AgreeOn (packetizerOf k) s u) :
    (runPacketizer k s).st = (runPacketizer k u).st ∧ (runPacketizer k s).outq = (runPacketizer k u).outq := by
  have hop : isOperation (packetizerOf k) = true := by cases k <;> rfl
  obtain ⟨t, v, ht, hv, hst, hq, -⟩ := operationsReadOnlyTheirOperands _ s u hop hs hu h
  cases (exec_packetizerOf k s).symm.trans ht
  cases (exec_packetizerOf k u).symm.trans hv
  exact ⟨hst, hq⟩

/-- The packetizer commands read `IN`, the run's parameters and four of the five parameter registers. -/
theorem agreeOn_packetizerOf (k : Packetizer) {s u : State} (hin : s.inBuf = u.inBuf) (hcfg : s.cfg = u.cfg)
    (hinum : s.inum = u.inum) (hwidth : s.width = u.width) (hlpp : s.lpp = u.lpp) (hchunk : s.chunk = u.chunk) :
    AgreeOn (packetizerOf k) s u := by
  cases k with
  | imgRaw => exact ⟨hin, hcfg, hinum, hwidth, hlpp⟩
  | imgRle => exact ⟨hin, hcfg, hinum, hwidth⟩
  | seq => exact ⟨hin, hcfg, hchunk⟩

/-- In IDLE, where the capacity admits the session's data, packetizing them is the command on them. -/
theorem packetizeData_of_fits {plan : SessionPlan} {s : State} (hs : s.st = .idle) (h : Fits s.cfg plan.data.length) :
    packetizeData plan s = runPacketizer plan.kind { s with inBuf := plan.data } := by
  rw [packetizeData, doLoad_fits hs h]

/-- The command issued again on the session's data, with the parameters as they were, comes to what it came to. -/
theorem packetizeData_again {plan : SessionPlan} {s t : State} (hs : s.st = .idle) (ht : t.st = .idle)
    (hfit : Fits s.cfg plan.data.length) (hcfg : t.cfg = s.cfg) (hinum : t.inum = s.inum)
    (hwidth : t.width = s.width) (hlpp : t.lpp = s.lpp) (hchunk : t.chunk = s.chunk) :
    (packetizeData plan t).st = (runPacketizer plan.kind { s with inBuf := plan.data }).st ∧
      ((runPacketizer plan.kind { s with inBuf := plan.data }).st = .ready →
        packetizeData plan t =
          produced (runPacketizer plan.kind { s with inBuf := plan.data }).outq { t with inBuf := plan.data }) := by
  obtain ⟨hst, hq⟩ := runPacketizer_congr (k := plan.kind) (s := { t with inBuf := plan.data })
    (u := { s with inBuf := plan.data }) ht hs (agreeOn_packetizerOf _ rfl hcfg hinum hwidth hlpp hchunk)
  rw [packetizeData_of_fits ht (hcfg ▸ hfit), ← hst, ← hq]
  exact ⟨rfl, runPacketizer_eq_produced_of_ready ht⟩

/-! ### The start -/

theorem step_of_start {s : State} {ss : Session} {rest : List HostAction} (hses : s.session = some ss)
    (hp : ss.phase = .idle) (hpend : s.pending = .session .start :: rest) :
    step s = .next (startSession ss { s with pending := rest }) := by
  rw [step_of_sessionEvent hses hpend]
  simp only [sessionEvent, hp, if_true]

theorem startSession_of_check_fault {ss : Session} {s : State} (h : (packetizeData ss.plan s).st = .fault) :
    startSession ss s = packetizeData ss.plan s := by
  simp only [startSession, h]

theorem startSession_of_check_ready {ss : Session} {s : State} (h : (packetizeData ss.plan s).st = .ready) :
    startSession ss s =
      issueRecord ss.plan.priming.selectMode
        { ss with phase := .priming, left := primingList ss.plan.priming } ss (clear (packetizeData ss.plan s)) := by
  simp only [startSession, h]

/-- A record that has a frame is made and sent. -/
theorem issueRecord_of_encodable {r : CommandRecord} {s : State} (after ss : Session) (hs : s.st = .idle)
    (h : Encodable s.cfg r) :
    issueRecord r after ss s = withSession (sendRequest (frameOf s.cfg r) after) (afterFrame r s) :=
  makeFrame_of_encodable ss _ hs h

/-- A record that has no frame fails the session. -/
theorem issueRecord_of_not_encodable {r : CommandRecord} {s : State} (after ss : Session) (hs : s.st = .idle)
    (h : ¬Encodable s.cfg r) :
    issueRecord r after ss s = failSession .transportError ss (encodeRecord r s) :=
  makeFrame_of_not_encodable ss _ hs h

/-- Settles O57: construction, and the check in FAULT and in READY, after which CLR leaves the block as before the
check but for `IN`. -/
theorem sessionStartsWithTheCheck : Obligations.SessionStartsWithTheCheck := by
  refine fun s rest => ⟨fun plan hses hpend => step_of_create hses hpend,
    fun ss u hses hp hs hpend hfit hu => ?_⟩
  have hcheck : packetizeData ss.plan { s with pending := rest } = u :=
    (packetizeData_of_fits (s := { s with pending := rest }) hs hfit).trans
      (Host.Outcome.next.inj ((exec_packetizerOf _ _).symm.trans hu))
  rw [step_of_start hses hp hpend]
  refine ⟨fun hfault => ?_, fun hready henc => ?_⟩
  · rw [startSession_of_check_fault (hcheck ▸ hfault), hcheck]
  · have hprod : u = produced u.outq { s with pending := rest, inBuf := ss.plan.data } := by
      cases (exec_packetizerOf _ _).symm.trans hu
      exact runPacketizer_eq_produced_of_ready hs hready
    have hcfg : u.cfg = s.cfg := by rw [hprod, produced_cfg]
    rw [startSession_of_check_ready (hcheck ▸ hready), hcheck,
      issueRecord_of_encodable _ _ (clear_st u) (by rwa [clear_cfg, hcfg]), hprod]
    rfl

/-! ### The burst begins -/

theorem beginBurst_of_ready {ss : Session} {s : State} (h : (packetizeData ss.plan s).st = .ready) :
    beginBurst ss s =
      withSession { ss with phase := .transferring, left := [], inFlight := false } (packetizeData ss.plan s) := by
  simp only [beginBurst, h]

theorem beginBurst_of_fault {ss : Session} {s : State} (h : (packetizeData ss.plan s).st = .fault) :
    beginBurst ss s = failSession .transportError ss (packetizeData ss.plan s) := by
  simp only [beginBurst, h]

/-- The session with the gap request's frame kept for reuse (46_host_transfer_session.md R260). -/
def keepingRequest (c : BlockConfig) (ss : Session) : Session := { ss with gapFrame := frameOf c ss.plan.gapRequest }

/-- After the OK to the last setup record the gap request's frame is made, kept, and the burst begins. -/
theorem primingOk_of_last {ss : Session} {r : CommandRecord} {s : State} (h : ss.left = [r]) (hs : s.st = .idle)
    (henc : Encodable s.cfg ss.plan.gapRequest) :
    primingOk ss s = beginBurst (keepingRequest s.cfg ss) (afterFrame ss.plan.gapRequest s) := by
  have hnone : ss.left.tail = [] := by rw [h, List.tail_cons]
  simp only [primingOk, hnone]
  exact makeFrame_of_encodable ss _ hs henc

/-- The state in which LOAD, REC.CLS and CLR leave the block after the OK acknowledgement (10_state.md R35 to R38). -/
def afterOk (b : Datagram) (s : State) : State :=
  { clear s with
    inBuf := b, rsize := 6, rrecid := BitVec.ofNat 32 s.cfg.ackRecid.toNat, rclass := 1
    rcode := BitVec.ofNat 32 (rd16 b 4) }

theorem afterReply_of_okReply {b : Datagram} {s : State} (hs : s.st = .idle) (h : OkReply s.cfg b) :
    afterReply b s = afterOk b s := by
  obtain ⟨hframed, hclass⟩ := (okReply_iff _ _).1 h
  obtain ⟨hlen, hsize, hid, -⟩ := h
  have hcode : replyCode s.cfg.ackRecid b = BitVec.ofNat 32 (rd16 b 4) :=
    if_pos ((isAckFrame_iff _ _).2 ⟨hlen, hid⟩)
  rw [afterReply, runRecCls_of_wellFramed (s := { s with inBuf := b }) hs hframed]
  simp only [replied, clear, hclass, hcode, hsize, hid]
  rfl

/-- The OK acknowledgement to the last setup record begins the burst, with the gap request's frame kept. -/
theorem primingReply_of_last {b : Datagram} {ss : Session} {r : CommandRecord} {s : State} (hleft : ss.left = [r])
    (hs : s.st = .idle) (hfit : Fits s.cfg b.length) (hok : OkReply s.cfg b)
    (henc : Encodable s.cfg ss.plan.gapRequest) :
    primingReply b ss s =
      beginBurst (keepingRequest s.cfg ss) (afterFrame ss.plan.gapRequest (afterOk b s)) := by
  rw [primingReply_of_okReply ss hs hfit hok, afterReply_of_okReply hs hok]
  exact primingOk_of_last hleft rfl henc

/-- Settles O58: the reply read and the request made, the packetizer command finds every operand as it was, so that it
comes to what `u` shows. -/
theorem lastOkBeginsTheBurst : Obligations.LastOkBeginsTheBurst := by
  intro s ss b r rest u hses hp hfl hleft hs hpend hfit hok henc hdata hu
  cases (exec_packetizerOf _ _).symm.trans hu
  obtain ⟨hst, hproduced⟩ := packetizeData_again (plan := (keepingRequest s.cfg ss).plan) (s := s)
    (t := afterFrame ss.plan.gapRequest (afterOk b { s with pending := rest })) hs rfl hdata rfl rfl rfl rfl rfl
  rw [step_of_primingReply hses hp hfl hpend,
    primingReply_of_last (s := { s with pending := rest }) hleft hs hfit hok henc]
  refine ⟨fun hready => ?_, fun hfault => ⟨_, rfl, ?_⟩⟩
  · rw [beginBurst_of_ready (hst.trans hready), hproduced hready]
    rfl
  · rw [beginBurst_of_fault (hst.trans hfault), ← hp]
    exact failSession_ends_since _ (keepingRequest s.cfg ss) (blockStep_packetizeData _ _).reports

end Sys2Proof.Machine
end

section
/-! The burst (46_host_transfer_session.md R255 to R257, R259): its turns one by one, and all of them together. -/

namespace Sys2Proof.Machine

/-! ### One turn -/

theorem step_of_advance {s : State} {ss : Session} {rest : List HostAction} (hses : s.session = some ss)
    (hpend : s.pending = .session .advance :: rest) :
    step s = .next (sessionAdvance ss { s with pending := rest }) :=
  step_of_sessionEvent hses hpend

theorem burstTurn_at_datagram {after : Session → Session} {ss : Session} {s : State} (hs : s.st = .ready)
    (h : s.outidx < s.outq.length) :
    burstTurn after ss s =
      withSession { ss with dataTx := ss.dataTx ++ [s.outq[s.outidx]] }
        { s with handed := s.handed ++ [s.outq[s.outidx]], outidx := s.outidx + 1 } := by
  simp only [burstTurn, hs, if_pos ((more_iff s).2 ⟨hs, h⟩), pullNext_at_datagram hs h, List.getD_eq_getElem _ _ h]

theorem burstTurn_at_end {after : Session → Session} {ss : Session} {s : State} (hs : s.st = .ready)
    (h : s.outq.length ≤ s.outidx) :
    burstTurn after ss s = withSession (sendRequest ss.gapFrame { after ss with phase := .verifying }) s := by
  have hmore : ¬more s = true := fun hm => Nat.not_lt.2 h ((more_iff s).1 hm).2
  simp only [burstTurn, hs, if_neg hmore]

/-- In both bursts a turn with a datagram left sends it. -/
theorem sessionAdvance_at_datagram {ss : Session} {s : State}
    (hp : ss.phase = .transferring ∨ ss.phase = .repairing) (hs : s.st = .ready) (h : s.outidx < s.outq.length) :
    sessionAdvance ss s =
      withSession { ss with dataTx := ss.dataTx ++ [s.outq[s.outidx]] }
        { s with handed := s.handed ++ [s.outq[s.outidx]], outidx := s.outidx + 1 } := by
  rcases hp with hp | hp <;> simp only [sessionAdvance, hp, burstTurn_at_datagram hs h]

/-- The session after a burst of the datagrams `sent` from a queue of `n`: they are on the data channel, the first burst
counts the queue, and the kept gap request is in flight. -/
def burstDone (n : Nat) (sent : List Datagram) (ss : Session) : Session :=
  { ss with
    phase := .verifying, inFlight := true
    sent := if ss.phase = .transferring then n else ss.sent
    dataTx := ss.dataTx ++ sent
    cmdTx := ss.cmdTx ++ [ss.gapFrame] }

/-- In both bursts the turn with no datagram left ends the burst. -/
theorem sessionAdvance_at_end {ss : Session} {s : State} (hp : ss.phase = .transferring ∨ ss.phase = .repairing)
    (hs : s.st = .ready) (h : s.outq.length ≤ s.outidx) :
    sessionAdvance ss s = withSession (burstDone s.outq.length [] ss) s := by
  rcases hp with hp | hp <;>
    simp [sessionAdvance, hp, burstTurn_at_end hs h, burstDone, sendRequest]

/-- The state after the burst of what is left of the queue. -/
def afterBurst (ss : Session) (s : State) : State :=
  { s with
    outidx := s.outq.length, handed := s.handed ++ s.outq.drop s.outidx
    session := some (burstDone s.outq.length (s.outq.drop s.outidx) ss) }

theorem afterBurst_at_end {ss : Session} {s : State} (h : s.outidx = s.outq.length) :
    withSession (burstDone s.outq.length [] ss) s = afterBurst ss s := by
  have hnone : s.outq.drop s.outidx = [] := by rw [h, List.drop_length]
  rw [afterBurst, hnone, List.append_nil, ← h]
  rfl

/-- The rest of the queue is the datagram of this turn and then the rest. -/
theorem afterBurst_after_datagram {ss : Session} {s : State} (h : s.outidx < s.outq.length) :
    afterBurst { ss with dataTx := ss.dataTx ++ [s.outq[s.outidx]] }
        (withSession { ss with dataTx := ss.dataTx ++ [s.outq[s.outidx]] }
          { s with handed := s.handed ++ [s.outq[s.outidx]], outidx := s.outidx + 1 }) =
      afterBurst ss s := by
  have hdrop := List.drop_eq_getElem_cons h
  simp only [afterBurst, burstDone, withSession, hdrop, List.append_assoc, List.singleton_append]

/-! ### The whole burst -/

/-- As many turns as datagrams are left and one more, by induction on how many: each sends the head of what is left. -/
theorem run_advance_of_left {k : Nat} : ∀ {s : State} {ss : Session} {rest : List HostAction},
    s.session = some ss → ss.phase = .transferring ∨ ss.phase = .repairing → s.st = .ready →
    s.outidx + k = s.outq.length → s.pending = List.replicate (k + 1) (.session .advance) ++ rest →
      core.run (k + 1) s = .next (afterBurst ss { s with pending := rest }) := by
  induction k with
  | zero =>
    intro s ss rest hses hp hs (hidx : s.outidx = s.outq.length) hpend
    have hturn := (sessionAdvance_at_end (s := { s with pending := rest }) hp hs hidx.ge).trans (afterBurst_at_end hidx)
    exact run_succ ((step_of_advance hses hpend).trans (congrArg Host.Outcome.next hturn)) 0
  | succ k ih =>
    intro s ss rest hses hp hs hk hpend
    have hlt : s.outidx < s.outq.length := by omega
    have hturn := sessionAdvance_at_datagram
      (s := { s with pending := List.replicate (k + 1) (.session .advance) ++ rest }) hp hs hlt
    calc core.run (k + 2) s
        = _ := run_succ ((step_of_advance hses hpend).trans (congrArg Host.Outcome.next hturn)) (k + 1)
      _ = _ := ih (withSession_session _ _) hp hs (by simp only [withSession]; omega) rfl
      _ = _ := congrArg Host.Outcome.next (afterBurst_after_datagram (s := { s with pending := rest }) hlt)

/-- Settles O55: the burst is as long as what is left of the queue. -/
theorem burstSendsTheQueue : Obligations.BurstSendsTheQueue := fun _ _ _ hses hp hs hidx hpend =>
  run_advance_of_left hses hp hs (by omega) hpend

end Sys2Proof.Machine
end

section
/-! A reply in `Verifying` (46_host_transfer_session.md R257 to R261): the gap reply's test and the final record's
reply. -/

namespace Sys2Proof.Machine

theorem step_of_verifyingReply {s : State} {ss : Session} {b : Datagram} {rest : List HostAction}
    (hses : s.session = some ss) (hp : ss.phase = .verifying) (hfl : ss.inFlight = true)
    (hpend : s.pending = .session (.reply b) :: rest) :
    step s = .next (verifyingReply b ss { s with pending := rest }) := by
  rw [step_of_sessionEvent hses hpend]
  simp only [sessionEvent, sessionReply, hp, hfl, if_true]

/-! ### The gap test -/

/-- `FIRST_INDEX` is 0 in raw mode and 1 otherwise (46_host_transfer_session.md R258, R265). -/
theorem firstIndex_eq (k : Packetizer) : firstIndex k = if k = .imgRaw then 0 else 1 := by
  cases k with
  | imgRaw | imgRle | seq => rfl

theorem goodCount_noGap (ss : Session) : goodCount ss .noGap = ss.sent := rfl

theorem goodCount_lastGood (ss : Session) (n : Nat) :
    goodCount ss (.lastGood n) = n + 1 - (if ss.plan.kind = .imgRaw then 0 else 1) := by
  rw [goodCount, firstIndex_eq]

/-- A well-framed reply to the gap request is put to the gap test. -/
theorem verifyingReply_of_gapReply {b : Datagram} {ss : Session} (s : State) (hfinal : ss.finalSent = false)
    (hframed : wellFramed b = true) :
    verifyingReply b ss s = gapTest (goodCount ss (parseGap ss.plan (b.drop 4))) ss s := by
  simp [verifyingReply, hfinal, hframed]

theorem gapTest_of_all (ss : Session) (s : State) :
    gapTest ss.sent ss s = issueRecord ss.plan.finalRecord { ss with finalSent := true } ss (clear s) :=
  if_pos rfl

theorem gapTest_of_fewer {g : Nat} {ss : Session} (s : State) (h : g < ss.sent) :
    gapTest g ss s =
      if ss.retries = retryCap s.cfg then failSession .transferIncomplete ss s else beginRepair g ss s :=
  (if_neg h.ne).trans (if_pos h)

theorem gapTest_of_more {g : Nat} {ss : Session} (s : State) (h : ss.sent < g) :
    gapTest g ss s = failSession .transportError ss s :=
  (if_neg h.ne').trans (if_neg h.not_gt)

/-- A repair from a datagram of the queue begins at it, with the block in READY. -/
theorem beginRepair_of_le {g : Nat} {ss : Session} {s : State} (hs : s.st = .ready) (h : g ≤ s.outq.length)
    (hg : g < 2 ^ 32) :
    beginRepair g ss s =
      withSession { ss with phase := .repairing, retries := ss.retries + 1, inFlight := false }
        { s with outidx := g } := by
  rcases beginRepair_cases g ss s hg with ⟨_, _, e⟩ | ⟨hlt, _⟩
  · exact e
  · exact absurd (hlt hs) (Nat.not_lt.2 h)

/-- Settles O56: `G` is `goodCount`'s, and the gap test's branches are the statement's. -/
theorem gapTestRepairsFromG : Obligations.GapTestRepairsFromG := by
  intro s ss b rest g hses hp hfl hfinal hs hsent hbound hlen hsize hpend hg
  have hgood : goodCount ss (parseGap ss.plan (b.drop 4)) = g := by
    rw [hg]
    cases parseGap ss.plan (b.drop 4) with
    | noGap => exact goodCount_noGap ss
    | lastGood n => exact goodCount_lastGood ss n
  have hturn : step s = .next (gapTest g ss { s with pending := rest }) := by
    rw [step_of_verifyingReply hses hp hfl hpend,
      verifyingReply_of_gapReply _ hfinal ((wellFramed_iff b).2 ⟨hlen, hsize⟩), hgood]
  refine ⟨_, hturn, ?_, ?_, fun hlt hretry => ?_, fun hlt hretry => ?_, fun hgt => ?_⟩
  · rintro rfl henc
    rw [gapTest_of_all, issueRecord_of_encodable _ _ (clear_st _) (by exact henc)]
    exact ⟨rfl, rfl, rfl, rfl, rfl, rfl⟩
  · rintro rfl henc
    rw [gapTest_of_all, issueRecord_of_not_encodable _ _ (clear_st _) (by exact henc), ← hp]
    exact failSession_ends_since _ ss (blockStep_encodeRecord _ _).reports
  · rw [gapTest_of_fewer _ hlt, if_neg hretry,
      beginRepair_of_le (s := { s with pending := rest }) hs (hsent ▸ hlt.le) (hlt.trans hbound)]
    exact ⟨hs, rfl, rfl, rfl, rfl, rfl⟩
  · rw [gapTest_of_fewer _ hlt, if_pos hretry, ← hp]
    exact failSession_ends_since _ ss rfl
  · rw [gapTest_of_more _ hgt, ← hp]
    exact failSession_ends_since _ ss rfl

/-! ### The final record's reply -/

theorem verifyingReply_of_finalSent {b : Datagram} {ss : Session} {s : State} (hfinal : ss.finalSent = true) :
    verifyingReply b ss s = finalReply b ss s :=
  if_pos hfinal

theorem finalReply_of_ready {b : Datagram} {ss : Session} {s : State} (h : (runRecCls (doLoad b s)).st = .ready) :
    finalReply b ss s = completeSession ss (runRecCls (doLoad b s)) := by
  simp only [finalReply, h]

theorem finalReply_of_fault {b : Datagram} {ss : Session} {s : State} (h : (runRecCls (doLoad b s)).st = .fault) :
    finalReply b ss s = failSession .transportError ss (runRecCls (doLoad b s)) := by
  simp only [finalReply, h]

/-- LOAD and REC.CLS in IDLE accept a reply that the buffer takes and that is well framed. -/
theorem runRecCls_doLoad_ready {b : Datagram} {s : State} (hs : s.st = .idle) (hfit : Fits s.cfg b.length)
    (hframed : wellFramed b = true) : (runRecCls (doLoad b s)).st = .ready := by
  rw [doLoad_fits hs hfit, runRecCls_of_wellFramed (s := { s with inBuf := b }) hs hframed]
  rfl

/-- Any other reply is a block fault. -/
theorem runRecCls_doLoad_fault {b : Datagram} {s : State} (hs : s.st = .idle)
    (h : ¬(Fits s.cfg b.length ∧ wellFramed b = true)) : (runRecCls (doLoad b s)).st = .fault := by
  by_cases hfit : Fits s.cfg b.length
  · rw [doLoad_fits hs hfit, runRecCls_of_not_wellFramed (s := { s with inBuf := b }) hs fun hf => h ⟨hfit, hf⟩,
      faulted_st]
  · rw [doLoad_overflow hs hfit, runRecCls, runOp_fault (faulted_st _ _ _), faulted_st]

/-- A session that ends in Complete with the block in a state reached from `s` has ended since `s`. -/
theorem completeSession_ends_since {s t : State} (ss : Session) (h : t.reports = s.reports) :
    SessionEnds s (completeSession ss t) ss.phase { ss with phase := .complete, inFlight := false } :=
  { completeSession_ends ss t with reports := h ▸ (completeSession_ends ss t).reports }

/-- Settles O59: LOAD and REC.CLS accept the reply, or fault. -/
theorem finalReplyCompletesTheSession : Obligations.FinalReplyCompletesTheSession := by
  intro s ss b rest hses hp hfl hfinal hs hpend
  have hreports : (runRecCls (doLoad b { s with pending := rest })).reports = s.reports :=
    ((blockStep_doLoad b _).trans (blockStep_runRecCls _)).reports
  rw [step_of_verifyingReply hses hp hfl hpend, verifyingReply_of_finalSent hfinal, ← hp]
  simp only [← wellFramed_iff]
  refine ⟨fun hfit hlen hsize => ⟨_, rfl, ?_⟩, fun hbad => ⟨_, rfl, ?_⟩⟩
  · have hframed := (wellFramed_iff b).2 ⟨hlen, hsize⟩
    rw [finalReply_of_ready (runRecCls_doLoad_ready (s := { s with pending := rest }) hs hfit hframed)]
    exact completeSession_ends_since ss hreports
  · rw [finalReply_of_fault (runRecCls_doLoad_fault (s := { s with pending := rest }) hs hbad)]
    exact failSession_ends_since _ ss hreports

end Sys2Proof.Machine
end

section
/-! The exceptions (60_exceptions.md R283, R286, R288, R290, R291): the illegal word, what fault entry writes, what acts
in FAULT, and that nothing stops the machine. -/

namespace Sys2Proof.Machine

/-! ### A unit that does not decode (60_exceptions.md R283) -/

theorem step_of_not_decodes {s : State} {a : HostAction} {rest : List HostAction} {u : CodeUnit} {e : DecodeError}
    (hp : s.pending = a :: rest) (hu : unitOf a = some u) (hd : decode s.cfg u = .error e) :
    step s = .next (runUndecoded u { s with pending := rest }) := by
  simp only [step, takeAction, hp, runAction, hu, runUnit, hd]

/-- Settles O6: such a word is none of the table's, so the step is fault entry before any state test. -/
theorem illegalWordRaisesIllegalOperation : Obligations.IllegalWordRaisesIllegalOperation := by
  intro s w rest hp hw
  obtain ⟨-, -, -, -, -, -, -, -, -, -, -, -, hother⟩ := commandDecoderIsTheTable s.cfg
  have htable : ∀ v ∈ ([0x00, 0x01, 0x02, 0x03, 0x04, 0x05, 0x06, 0x08, 0x18, 0x09, 0x0A, 0x0B] : List Word),
      v.toNat ∈ [0x00, 0x01, 0x02, 0x03, 0x04, 0x05, 0x06, 0x08, 0x09, 0x0A, 0x0B, 0x18] := by simp
  obtain ⟨e, hd⟩ := hother w fun hmem => hw (htable w hmem)
  rw [step_of_not_decodes hp rfl hd]
  refine congrArg Host.Outcome.next ?_
  split
  next hs => exact raise_of_fault .illegalOperation _ hs
  next hs => exact raise_of_not_fault .illegalOperation _ hs

/-! ### No step stops (60_exceptions.md R291) -/

theorem exec_exists_next (i : Instr) (s : State) : ∃ t, exec i s = .next t := by
  rcases exec_cases i s with e | e | e | ⟨_, e⟩ | ⟨_, _, e⟩ <;> exact ⟨_, e⟩

theorem step_exists_next (s : State) : ∃ t, step s = .next t := by
  rcases step_cases s with ⟨_, e⟩ | ⟨_, _, _, _, e⟩ | ⟨_, rest, _, i, _, _, _, e⟩ | ⟨_, _, _, _, _, _, _, e⟩
  · exact ⟨_, e⟩
  · exact ⟨_, e⟩
  · obtain ⟨t, ht⟩ := exec_exists_next i { s with pending := rest }
    exact ⟨t, e.trans ht⟩
  · exact ⟨_, e⟩

theorem run_exists_next (k : Nat) : ∀ s : State, ∃ t, core.run k s = .next t := by
  induction k with
  | zero => exact fun s => ⟨s, rfl⟩
  | succ k ih =>
    intro s
    obtain ⟨t, ht⟩ := step_exists_next s
    rw [run_succ ht]
    exact ih t

theorem safe_of_any (s : State) : Safe s := fun k => by
  obtain ⟨t, ht⟩ := run_exists_next k s
  rw [ht]
  rfl

/-- Settles O39: one step goes on from every state, so a run does, by induction on its length. -/
theorem nothingStopsTheMachine : Obligations.NothingStopsTheMachine := fun s => ⟨step_exists_next s, safe_of_any s⟩

/-! ### The rule of FAULT, one operation at a time (60_exceptions.md R286) -/

/-- From `s` to `t` the block follows the rule of FAULT: it refuses in FAULT, and entering it from elsewhere writes
nothing but a fault's entry. -/
inductive FaultRule (s t : State) : Prop
  | refuses (hs : s.st = .fault) (ht : t = s)
  | enters (f : BlockFault) (hs : s.st ≠ .fault) (ht : t = faulted (faultCodeOf f) (faultParamOf f) s)
  | goesOn (hs : s.st ≠ .fault) (ht : t.st ≠ .fault)

theorem FaultRule.refl (s : State) : FaultRule s s := by
  by_cases hs : s.st = .fault
  · exact .refuses hs rfl
  · exact .goesOn hs hs

/-- In FAULT the rule leaves nothing but refusal. -/
theorem FaultRule.eq_of_fault {s t : State} (h : FaultRule s t) (hs : s.st = .fault) : t = s := by
  cases h with
  | refuses _ ht => exact ht
  | enters _ hne => exact absurd hs hne
  | goesOn hne => exact absurd hs hne

/-- From outside FAULT the rule leaves no other way in than a fault's entry. -/
theorem FaultRule.exists_faulted {s t : State} (h : FaultRule s t) (hs : s.st ≠ .fault) (ht : t.st = .fault) :
    ∃ f, t = faulted (faultCodeOf f) (faultParamOf f) s := by
  cases h with
  | refuses hf => exact absurd hf hs
  | enters f _ e => exact ⟨f, e⟩
  | goesOn _ hne => exact absurd ht hne

theorem faultRule_protocolViolation {s : State} (hs : s.st ≠ .fault) : FaultRule s (faulted 6 0 s) :=
  .enters .protocolViolation hs rfl

theorem faultRule_raise (f : BlockFault) (s : State) : FaultRule s (raise f s) := by
  by_cases hs : s.st = .fault
  · exact .refuses hs (raise_of_fault f s hs)
  · exact .enters f hs (raise_of_not_fault f s hs)

theorem faultRule_runOp (op : State → Except BlockFault OpResult) (s : State) : FaultRule s (runOp op s) := by
  rcases runOp_cases op s with ⟨_, hs, _, e⟩ | ⟨f, hs, _, e⟩ | ⟨hs, e⟩ | ⟨hs, e⟩ <;> rw [e]
  · exact .goesOn (by simp [hs]) (by simp)
  · exact .enters f (by simp [hs]) rfl
  · exact faultRule_protocolViolation (by simp [hs])
  · exact .refl s

theorem faultRule_doLoad (b : List Byte) (s : State) : FaultRule s (doLoad b s) := by
  rcases doLoad_cases b s with ⟨hs, _, e⟩ | ⟨hs, _, e⟩ | ⟨hs, e⟩ | ⟨hs, e⟩ <;> rw [e]
  · exact .goesOn (by simp [hs]) (by simp [hs])
  · exact .enters .bufferOverflow (by simp [hs]) rfl
  · exact faultRule_protocolViolation (by simp [hs])
  · exact .refl s

theorem faultRule_pullNext (s : State) : FaultRule s (pullNext s) := by
  rcases pullNext_cases s with ⟨hs, _, e⟩ | ⟨hs, _, e⟩ | ⟨hs, e⟩ | ⟨hs, e⟩ <;> rw [e]
  · exact .goesOn (by simp [hs]) (by simp [hs])
  · exact faultRule_protocolViolation (by simp [hs])
  · exact faultRule_protocolViolation (by simp [hs])
  · exact .refl s

theorem faultRule_doSeek (v : Word) (s : State) : FaultRule s (doSeek v s) := by
  rcases doSeek_cases v s with ⟨hs, _, e⟩ | ⟨hs, _, e⟩ | ⟨hs, e⟩ | ⟨hs, e⟩ <;> rw [e]
  · exact .goesOn (by simp [hs]) (by simp [hs])
  · exact faultRule_protocolViolation (by simp [hs])
  · exact faultRule_protocolViolation (by simp [hs])
  · exact .refl s

theorem faultRule_doSet {write : State → State} {s : State} (hw : (write s).st = s.st) :
    FaultRule s (doSet write s) := by
  rcases doSet_cases write s with ⟨hs, e⟩ | ⟨hs, e⟩ | ⟨hs, e⟩ <;> rw [e]
  · exact .goesOn (by simp [hs]) (by simp [hw, hs])
  · exact faultRule_protocolViolation (by simp [hs])
  · exact .refl s

theorem faultRule_writeAt (offset : Nat) (v : Word) (s : State) : FaultRule s (writeAt offset v s) := by
  unfold writeAt
  split
  next r _ =>
    cases r with
    | outidx => exact faultRule_doSeek v s
    | recid | inum | width | lpp | chunk =>
      unfold writeReg
      exact faultRule_doSet rfl
    | cmd | status | fault | outcnt | outlen | inlen | rsize | rrecid | rclass | rcode => exact .refl s
  next => exact .refl s

/-- Of the twelve commands CLR alone is not bound by the rule. -/
theorem faultRule_exec {i : Instr} {s t : State} (hi : isCommand i = true) (hclr : i ≠ .clr)
    (h : exec i s = .next t) : FaultRule s t := by
  rcases exec_kinds i s with ⟨_, e⟩ | ⟨hc, _⟩ | ⟨_, e⟩ | ⟨op, _, e⟩ | ⟨op, _, _, e⟩ | ⟨hn, _⟩
  · cases e.symm.trans h
    exact .refl s
  · exact absurd hc hclr
  · cases e.symm.trans h
    exact faultRule_pullNext s
  · cases e.symm.trans h
    exact faultRule_runOp op s
  · cases e.symm.trans h
    exact faultRule_runOp op s
  · simp [hi] at hn

/-! ### The rule of FAULT, one action at a time -/

theorem step_of_clr {s : State} {rest : List HostAction} (hp : s.pending = .write 0x00 0x0B :: rest) :
    step s = .next (clear { s with pending := rest }) :=
  step_of_decodes (u := .cmd 0x0B) hp rfl rfl

theorem faultRule_of_command {s t : State} {w : Word} {rest : List HostAction}
    (hp : s.pending = .write 0x00 w :: rest) (hw : w ≠ 0x0B) (h : step s = .next t) :
    FaultRule { s with pending := rest } t := by
  cases hd : decode s.cfg (.cmd w) with
  | ok i =>
    obtain ⟨hi, henc⟩ := encode_of_decodeCmd s.cfg hd
    have hclr : i ≠ .clr := by
      rintro rfl
      cases henc
      exact hw rfl
    exact faultRule_exec hi hclr ((step_of_decodes hp rfl hd).symm.trans h)
  | error e =>
    cases (step_of_not_decodes hp rfl hd).symm.trans h
    exact faultRule_raise .illegalOperation _

/-- Every write but CLR, to `CMD` or elsewhere. -/
theorem faultRule_of_write {s t : State} {offset : Nat} {v : Word} {rest : List HostAction}
    (hp : s.pending = .write offset v :: rest) (hclr : HostAction.write offset v ≠ .write 0x00 0x0B)
    (h : step s = .next t) : FaultRule { s with pending := rest } t := by
  by_cases hcmd : regAt offset = some .cmd
  · obtain rfl : offset = 0x00 := eq_offset_of_regAt hcmd
    exact faultRule_of_command hp (fun hv => hclr (hv ▸ rfl)) h
  · cases (step_of_write hp hcmd).symm.trans h
    exact faultRule_writeAt offset v _

theorem faultRule_of_load {s t : State} {b : List Byte} {rest : List HostAction} (hp : s.pending = .load b :: rest)
    (h : step s = .next t) : FaultRule { s with pending := rest } t := by
  cases (step_of_load hp).symm.trans h
  exact faultRule_doLoad b _

/-- CLR, READ and RESET are not bound by the rule, but none of them enters FAULT. -/
theorem exists_faulted_of_single {s t : State} {a : HostAction} {rest : List HostAction} (hp : s.pending = a :: rest)
    (ha : isSingle a = true) (hs : s.st ≠ .fault) (h : step s = .next t) (ht : t.st = .fault) :
    ∃ f, t = faulted (faultCodeOf f) (faultParamOf f) { s with pending := rest } := by
  cases a with
  | write offset v =>
    by_cases hclr : HostAction.write offset v = .write 0x00 0x0B
    · cases (step_of_clr (hclr ▸ hp)).symm.trans h
      cases ht
    · exact (faultRule_of_write hp hclr h).exists_faulted hs ht
  | read offset =>
    cases (step_of_read hp).symm.trans h
    exact absurd ht hs
  | load b => exact (faultRule_of_load hp h).exists_faulted hs ht
  | reset =>
    cases (step_of_reset hp).symm.trans h
    cases ht
  | present | session => cases ha

/-- Settles O40: a fault's code is not 0, and its parameter is not 0 for InvalidParameter alone. -/
theorem faultEntryWritesNothingElse : Obligations.FaultEntryWritesNothingElse := by
  intro s t a rest hp ha hs h ht
  obtain ⟨f, e⟩ := exists_faulted_of_single hp ha hs h ht
  exact ⟨faultCodeOf f, faultParamOf f, faultCodeOf_ne_zero f, (faultCodeOf_eq_one_iff f).symm, e⟩

/-! ### Presenting a unit in FAULT (60_exceptions.md R288; log 2) -/

/-- A descriptor is written as 16 bits, though not the ones read where the layout is not valid. -/
theorem exists_encode_of_decodeDesc {c : BlockConfig} {b : List Byte} {i : Instr} (h : decodeDesc c.layout b = .ok i) :
    ∃ b', encode c i = .wire .desc16 b' := by
  unfold decodeDesc at h
  split_ifs at h
  cases h
  exact ⟨_, encode_descInstr c _⟩

/-- What decodes in a format is a unit of that format, under any layout. -/
theorem exists_encode_of_decodeFields {c : BlockConfig} {f : WireFormat} {b : List Byte} {i : Instr}
    (h : decodeFields c f b = .ok i) : ∃ b', encode c i = .wire f b' := by
  cases f with
  | frameRecord => exact ⟨b, encode_of_decodeFrameRecord h⟩
  | frameAck => exact ⟨b, encode_of_decodeFrameAck h⟩
  | desc16 => exact exists_encode_of_decodeDesc h
  | pktImgRaw => exact ⟨b, encode_of_decodePktImgRaw h⟩
  | pktImgRle => exact ⟨b, encode_of_decodePktImgRle h⟩
  | chunkSeq => exact ⟨b, encode_of_decodeChunkSeq h⟩

/-- Whether they decode or not, presented bytes are loaded and read by the format's command. -/
theorem step_of_present {s : State} {f : WireFormat} {b : List Byte} {rest : List HostAction}
    (hp : s.pending = .present f b :: rest) :
    ∃ b', step s = .next (presentBytes (consumerOf f) b' { s with pending := rest }) := by
  cases hd : decode s.cfg (.wire f b) with
  | ok i =>
    obtain ⟨hfields, -⟩ := decodeWire_eq_ok_iff.1 hd
    obtain ⟨b', henc⟩ := exists_encode_of_decodeFields hfields
    exact ⟨b', (step_of_decodes hp rfl hd).trans (exec_of_encode_wire (s := { s with pending := rest }) henc)⟩
  | error e => exact ⟨b, step_of_not_decodes hp rfl hd⟩

theorem faultRule_consumerOf (f : WireFormat) (s : State) : FaultRule s (consumerOf f s) := by
  cases f with
  | frameRecord | frameAck | desc16 | pktImgRle | chunkSeq => exact faultRule_runOp _ s
  | pktImgRaw => exact .refl s

theorem presentBytes_of_fault (f : WireFormat) (b : List Byte) {s : State} (hs : s.st = .fault) :
    presentBytes (consumerOf f) b s = s := by
  rw [presentBytes, doLoad_of_fault b hs, (faultRule_consumerOf f s).eq_of_fault hs]

/-- Settles O41: writes and LOAD follow the rule of FAULT, and a presented unit is two actions that do. -/
theorem faultIsStickyUntilClearOrReset : Obligations.FaultIsStickyUntilClearOrReset := by
  intro s a rest hs hp hreset hread hsession hclr
  obtain ⟨t, ht⟩ := step_exists_next s
  cases a with
  | write offset v => rw [ht, (faultRule_of_write hp hclr ht).eq_of_fault hs]
  | load b => rw [ht, (faultRule_of_load hp ht).eq_of_fault hs]
  | present f b =>
    obtain ⟨b', e⟩ := step_of_present hp
    exact e.trans (congrArg Host.Outcome.next (presentBytes_of_fault f b' (s := { s with pending := rest }) hs))
  | read offset => exact absurd rfl (hread offset)
  | reset => exact absurd rfl hreset
  | session e => exact absurd rfl (hsession e)

end Sys2Proof.Machine
end
